-- ==== Sys2Proof/Word.lean ====
section
/-! DEFINITION. The word types of the block (00_scope.md R6, R8): every value is unsigned, bit 0 least significant. -/
namespace Sys2Proof

/-- A data, display or attribute byte (R106). -/
abbrev Byte := BitVec 8

/-- A memory or port address (R61, R62). -/
abbrev Addr := BitVec 16

/-- The pin word (R21, R91). -/
abbrev PinWord := BitVec 64

/-- A frame-buffer sample (R100). -/
abbrev Sample := BitVec 32

end Sys2Proof
end

