-- ==== Sys2Proof/Machine/Flags.lean ====
section
/-! DEFINITION. The flags of the pin word: their masks (30_encoding.md R92), how one is tested, set and cleared (40_pin_codec.md R125), and
the same flags as bits of the control part 63:24. -/
namespace Sys2Proof.Machine

def maskM1 : PinWord := 0x0000000001000000
def maskMREQ : PinWord := 0x0000000002000000
def maskIORQ : PinWord := 0x0000000004000000
def maskRD : PinWord := 0x0000000008000000
def maskWR : PinWord := 0x0000000010000000
def maskHALT : PinWord := 0x0000000020000000
def maskINT : PinWord := 0x0000000040000000
def maskRES : PinWord := 0x0000000080000000
def maskNMI : PinWord := 0x0000000100000000
def maskWAIT : PinWord := 0x0000000200000000
def maskRFSH : PinWord := 0x0000000400000000

def addrMask : PinWord := 0x000000000000FFFF
def dataMask : PinWord := 0x0000000000FF0000
def ctrlMask : PinWord := 0x00000007FF000000

/-- R125: a flag is tested with `(p & FLAG) != 0`. -/
def flagSet (p flag : PinWord) : Bool := p &&& flag != 0

/-- R125: a flag is set with `p | FLAG`. -/
def setFlag (p flag : PinWord) : PinWord := p ||| flag

/-- R125: a flag is cleared with `p & ~FLAG`. -/
def clearFlag (p flag : PinWord) : PinWord := p &&& ~~~flag

/-- R161, step 1 of the adapter's tick: the INT bit becomes the latch, whatever it held. -/
def mergeInt (p : PinWord) (latch : Bool) : PinWord :=
  if latch then setFlag (clearFlag p maskINT) maskINT else clearFlag p maskINT

/-- The match and mask of a row of R93: `(p & mask) == match`, where match = mask. -/
def rowMatches (p mask : PinWord) : Bool := p &&& mask == mask

def rowMemRead : PinWord := 0x000000000A000000
def rowMemWrite : PinWord := 0x0000000012000000
def rowIntAck : PinWord := 0x0000000005000000
def rowIoRead : PinWord := 0x000000000C000000
def rowIoWrite : PinWord := 0x0000000014000000

end Sys2Proof.Machine
end

