-- ==== Sys2Proof/Machine/Operands.lean ====
section
/-! DEFINITION. Operand forms: the pin word's fields and the pin codec (40_pin_codec.md R120 to R124), the port decode (R94), the video
addresses (R96, R97), the attribute and display bytes (R98, R99, R101), the snapshot's words (R103). -/
namespace Sys2Proof.Machine

/-- The floating bus (R6, R12). -/
def floatBus : Byte := 0xFF

/-- R120. Operands wider than their fields are truncated; flag bits outside CTRL_MASK are dropped. -/
def pinPack (flags addr data : BitVec 64) : PinWord :=
  (flags &&& ctrlMask) ||| (addr &&& addrMask) ||| ((data &&& 0xFF) <<< 16)

/-- R121: `pins[15:0]`. -/
def pinGetAddr (p : PinWord) : Addr := p.extractLsb' 0 16

/-- R122: replace bits 15:0. -/
def pinSetAddr (p addr : BitVec 64) : PinWord := (p &&& ~~~addrMask) ||| (addr &&& addrMask)

/-- R123: `pins[23:16]`. -/
def pinGetData (p : PinWord) : Byte := p.extractLsb' 16 8

/-- R124: replace bits 23:16. -/
def pinSetData (p data : BitVec 64) : PinWord := (p &&& ~~~dataMask) ||| ((data &&& 0xFF) <<< 16)

/-- Bits 63:24 of the pin word: the eleven flags and the reserved bits (R91). -/
def pinCtl (p : PinWord) : BitVec 40 := p.extractLsb' 24 40

/-- The pin word `{ctl, data, addr}` (R91). -/
def pinJoin (ctl : BitVec 40) (data : Byte) (addr : Addr) : PinWord := (ctl ++ data ++ addr : BitVec 64)

/-- R124 applied to a byte: the adapter's `p.DATA <- v`. -/
def placeData (p : PinWord) (v : Byte) : PinWord := pinSetData p (v.zeroExtend 64)

/-- R140, R94: `(~address & mask) == mask` on 16 bits. -/
def covers (mask : BitVec 16) (addr : Addr) : Bool := ~~~addr &&& mask == mask

/-- R95: bits 2:0 of the data byte of a border write (and of the snapshot's byte 26, R266). -/
def borderOf (value : Byte) : BitVec 3 := value.extractLsb' 0 3

/-- R96: the display-byte address of screen coordinates `(row, col)`. -/
def displayAddr (row col : Nat) : Addr :=
  0x4000#16 ||| ((BitVec.ofNat 16 row &&& 0xC0#16) <<< 5) ||| ((BitVec.ofNat 16 row &&& 0x07#16) <<< 8)
    ||| ((BitVec.ofNat 16 row &&& 0x38#16) <<< 2) ||| (BitVec.ofNat 16 col &&& 0x1F#16)

/-- R97: the attribute address of screen coordinates `(row, col)`. -/
def attrAddr (row col : Nat) : Addr :=
  0x5800#16 + (BitVec.ofNat 16 row >>> 3) * 32#16 + BitVec.ofNat 16 col

/-- R101: the attribute byte of a border cell, `zext_8(BORDER) << 3`. -/
def borderAttr (border : BitVec 3) : Byte := border.zeroExtend 8 <<< 3

/-- R99. -/
def attrInk (a : Byte) : BitVec 3 := a.extractLsb' 0 3
def attrPaper (a : Byte) : BitVec 3 := a.extractLsb' 3 3
def attrBright (a : Byte) : Bool := a.getLsbD 6
def attrFlash (a : Byte) : Bool := a.getLsbD 7

/-- R98: pixel `i`, 0 leftmost, takes display bit `7 - i`. -/
def pixelBit (d : Byte) (i : Nat) : Bool := d.getLsbD (7 - i)

/-- R103: byte `o` of a host image, 0 past its end (never reached after the length test). -/
def imageByte (b : List Byte) (o : Nat) : Byte := b.getD o 0

/-- R103: the little-endian 16-bit word at offset `o`. -/
def imageWord (b : List Byte) (o : Nat) : BitVec 16 :=
  (imageByte b o).zeroExtend 16 ||| ((imageByte b (o + 1)).zeroExtend 16 <<< 8)

end Sys2Proof.Machine
end

