-- ==== Sys2Proof/Syntax.lean ====
section
/-! DEFINITION. The operations of the block, one constructor per row of spec/opcode_table.json (30_encoding.md R107, R108). -/
namespace Sys2Proof

/-- The core's register names (10_state.md R25); `Alt` stands for the primed, shadow register. -/
inductive CoreReg where
  | af | bc | de | hl | afAlt | bcAlt | deAlt | hlAlt | ix | iy | sp | pc | i | r | im | iff1 | iff2
  deriving DecidableEq, Repr

/-- The register file the core's contract exposes (10_state.md R25). `im` is one byte, as the snapshot header gives it (log 2). -/
structure CoreRegs where
  af : BitVec 16
  bc : BitVec 16
  de : BitVec 16
  hl : BitVec 16
  afAlt : BitVec 16
  bcAlt : BitVec 16
  deAlt : BitVec 16
  hlAlt : BitVec 16
  ix : BitVec 16
  iy : BitVec 16
  sp : BitVec 16
  pc : BitVec 16
  i : BitVec 8
  r : BitVec 8
  im : BitVec 8
  iff1 : Bool
  iff2 : Bool
  deriving DecidableEq, Repr, Inhabited

/-- A device of the I/O registry (42_io_registry.md R140): the video-timing controller; a stub that reads one byte and
ignores writes (the test devices of 95_test_vectors.md V3); any other device, with a state of its own and open operations (log 22). -/
inductive Device where
  | ula
  | stub (value : Byte)
  | ext (id : Nat)
  deriving DecidableEq, Repr

/-- The operations. A bus transaction carries the word the core returned, cut into bits 63:24 (`ctl`), `data` and `addr`. -/
inductive Instr where
  -- bus transactions, format PIN (R93)
  | memRead (ctl : BitVec 40) (data : Byte) (addr : Addr)
  | memWrite (ctl : BitVec 40) (data : Byte) (addr : Addr)
  | intAck (ctl : BitVec 40) (data : Byte) (addr : Addr)
  | ioRead (ctl : BitVec 40) (data : Byte) (addr : Addr)
  | ioWrite (ctl : BitVec 40) (data : Byte) (addr : Addr)
  | busIdle (ctl : BitVec 40) (data : Byte) (addr : Addr)
  -- the controller as a device, format PORT (R94, R95)
  | ulaPortWr (addr : Addr) (value : Byte)
  | ulaPortRd (addr : Addr)
  -- pin codec; operands may be wider than their fields (R120, U5)
  | pinPack (flags addr data : BitVec 64)
  | pinGetAddr (pins : PinWord)
  | pinSetAddr (pins : PinWord) (addr : BitVec 64)
  | pinGetData (pins : PinWord)
  | pinSetData (pins : PinWord) (data : BitVec 64)
  -- Memory
  | memRd (addr : Addr)
  | memWr (addr : Addr) (value : Byte)
  | memLoad (source : List Byte) (dest : Addr) (length : Nat)
  -- I/O registry
  | ioRegister (mask : BitVec 16) (device : Device)
  | ioRd (addr : Addr)
  | ioWr (addr : Addr) (value : Byte)
  -- the external core's contract
  | coreTick (pins : PinWord)
  | corePrefetch (addr : Addr)
  | coreIbound
  | coreGetreg (reg : CoreReg)
  | coreSetreg (reg : CoreReg) (value : BitVec 16)
  -- adapter
  | cpuTick
  | setInt (b : Bool)
  | setPc (addr : Addr)
  -- video-timing controller, CRT rasterizer, scheduler
  | ulaTick
  | crtUpdate (line column : Nat) (display attr : Byte)
  | crtRefresh
  | schedBatch
  | schedRun
  -- host
  | loadRom (source : List Byte)
  | loadScr (source : List Byte)
  | loadSna (source : List Byte)
  -- stimulus notation (R108)
  | ticksN (n : Nat)
  | lineEnd
  | fieldEnd
  | fieldsN (n : Nat)
  | outPort (port : Addr) (value : Byte)
  | poke (addr : Addr) (value : Byte)
  | peek (addr : Addr)
  deriving DecidableEq, Repr

end Sys2Proof
end

