-- ==== Sys2Proof/WellFormed.lean ====
section
/-! DEFINITION. Which terms of Instr are operations of the block: a transaction's word matches its row and no earlier row (30_encoding.md R93),
a PORT operation's address matches the table's mask (R94), a load stays in Memory (R132), a register value has the register's width (R154). -/
namespace Sys2Proof

/-- The width of a core register (10_state.md R25; `im`: log 2). -/
def CoreReg.width : CoreReg → Nat
  | .af | .bc | .de | .hl | .afAlt | .bcAlt | .deAlt | .hlAlt | .ix | .iy | .sp | .pc => 16
  | .i | .r | .im => 8
  | .iff1 | .iff2 => 1

/-- The mask of the table's two PORT rows: ULA_MASK at its default (R94, D18). -/
def portRowMask : BitVec 16 := 0x0001

/-- Whether the word with control part `ctl` matches a row of R93. -/
def ctlMatches (ctl : BitVec 40) (row : PinWord) : Bool := Machine.rowMatches (Machine.pinJoin ctl 0 0) row

def Instr.wf : Instr → Bool
  | .memRead ctl _ _ => ctlMatches ctl Machine.rowMemRead
  | .memWrite ctl _ _ => ctlMatches ctl Machine.rowMemWrite && !ctlMatches ctl Machine.rowMemRead
  | .intAck ctl _ _ =>
    ctlMatches ctl Machine.rowIntAck && !ctlMatches ctl Machine.rowMemWrite && !ctlMatches ctl Machine.rowMemRead
  | .ioRead ctl _ _ =>
    ctlMatches ctl Machine.rowIoRead && !ctlMatches ctl Machine.rowIntAck && !ctlMatches ctl Machine.rowMemWrite
      && !ctlMatches ctl Machine.rowMemRead
  | .ioWrite ctl _ _ =>
    ctlMatches ctl Machine.rowIoWrite && !ctlMatches ctl Machine.rowIoRead && !ctlMatches ctl Machine.rowIntAck
      && !ctlMatches ctl Machine.rowMemWrite && !ctlMatches ctl Machine.rowMemRead
  | .busIdle ctl _ _ =>
    !ctlMatches ctl Machine.rowIoWrite && !ctlMatches ctl Machine.rowIoRead && !ctlMatches ctl Machine.rowIntAck
      && !ctlMatches ctl Machine.rowMemWrite && !ctlMatches ctl Machine.rowMemRead
  | .ulaPortWr addr _ => Machine.covers portRowMask addr
  | .ulaPortRd addr => Machine.covers portRowMask addr
  | .memLoad _ dest length => dest.toNat + length ≤ 65536
  | .coreSetreg reg value => value.toNat < 2 ^ reg.width
  | .pinPack _ _ _ => true
  | .pinGetAddr _ => true
  | .pinSetAddr _ _ => true
  | .pinGetData _ => true
  | .pinSetData _ _ => true
  | .memRd _ => true
  | .memWr _ _ => true
  | .ioRegister _ _ => true
  | .ioRd _ => true
  | .ioWr _ _ => true
  | .coreTick _ => true
  | .corePrefetch _ => true
  | .coreIbound => true
  | .coreGetreg _ => true
  | .cpuTick => true
  | .setInt _ => true
  | .setPc _ => true
  | .ulaTick => true
  | .crtUpdate _ _ _ _ => true
  | .crtRefresh => true
  | .schedBatch => true
  | .schedRun => true
  | .loadRom _ => true
  | .loadScr _ => true
  | .loadSna _ => true
  | .ticksN _ => true
  | .lineEnd => true
  | .fieldEnd => true
  | .fieldsN _ => true
  | .outPort _ _ => true
  | .poke _ _ => true
  | .peek _ => true

end Sys2Proof
end

