-- ==== Sys2Proof/Decode.lean ====
section
/-! DEFINITION. Decoding: the pin word to its bus transaction by the priority chain of 30_encoding.md R93, the port address to the controller's
operation by R94; then the encoder. CALL and PSEUDO rows have no encoding ("selected by which interface is invoked"). -/
namespace Sys2Proof

/-- The six transactions of R93. -/
inductive Transaction where
  | memRead | memWrite | intAck | ioRead | ioWrite | busIdle
  deriving DecidableEq, Repr

/-- Why bytes decode to no operation. -/
inductive DecodeError where
  /-- A 16-bit port address that the row's mask does not cover: no device is selected (R94). Safe. -/
  | noDevice
  /-- No format of R90 has this many bytes (R106). Safe. -/
  | noFormat
  deriving DecidableEq, Repr

/-- R93: the rows in priority order, first match wins. -/
def classify (p : PinWord) : Transaction :=
  if Machine.rowMatches p Machine.rowMemRead then .memRead
  else if Machine.rowMatches p Machine.rowMemWrite then .memWrite
  else if Machine.rowMatches p Machine.rowIntAck then .intAck
  else if Machine.rowMatches p Machine.rowIoRead then .ioRead
  else if Machine.rowMatches p Machine.rowIoWrite then .ioWrite
  else .busIdle

/-- The transaction of a pin word with its operands; total (R105). -/
def decodePin (p : PinWord) : Instr :=
  match classify p with
  | .memRead => .memRead (Machine.pinCtl p) (Machine.pinGetData p) (Machine.pinGetAddr p)
  | .memWrite => .memWrite (Machine.pinCtl p) (Machine.pinGetData p) (Machine.pinGetAddr p)
  | .intAck => .intAck (Machine.pinCtl p) (Machine.pinGetData p) (Machine.pinGetAddr p)
  | .ioRead => .ioRead (Machine.pinCtl p) (Machine.pinGetData p) (Machine.pinGetAddr p)
  | .ioWrite => .ioWrite (Machine.pinCtl p) (Machine.pinGetData p) (Machine.pinGetAddr p)
  | .busIdle => .busIdle (Machine.pinCtl p) (Machine.pinGetData p) (Machine.pinGetAddr p)

/-- Bytes, least significant first, as one number. -/
def bytesToNat : List Byte → Nat
  | [] => 0
  | b :: bs => b.toNat + 256 * bytesToNat bs

/-- The low `n` bytes of a number, least significant first. -/
def natToBytes : Nat → Nat → List Byte
  | 0, _ => []
  | n + 1, w => BitVec.ofNat 8 w :: natToBytes n (w / 256)

/-- Total on any bytes. Eight bytes are a pin word; a port address alone is a port read, a port address followed by a data byte a
port write (log 23); any other count has no format. -/
def decode (bs : List Byte) : Except DecodeError Instr :=
  match bs with
  | [lo, hi] =>
    if Machine.covers portRowMask (hi ++ lo : BitVec 16) then .ok (.ulaPortRd (hi ++ lo : BitVec 16)) else .error .noDevice
  | [lo, hi, v] =>
    if Machine.covers portRowMask (hi ++ lo : BitVec 16) then .ok (.ulaPortWr (hi ++ lo : BitVec 16) v) else .error .noDevice
  | [b0, b1, b2, b3, b4, b5, b6, b7] =>
    .ok (decodePin (b7 ++ b6 ++ b5 ++ b4 ++ b3 ++ b2 ++ b1 ++ b0 : BitVec 64))
  | _ => .error .noFormat

/-- The bytes of a port address, least significant first. -/
def addrBytes (a : Addr) : List Byte := [a.extractLsb' 0 8, a.extractLsb' 8 8]

/-- The bytes of a pin word, least significant first. -/
def pinBytes (p : PinWord) : List Byte :=
  [p.extractLsb' 0 8, p.extractLsb' 8 8, p.extractLsb' 16 8, p.extractLsb' 24 8,
   p.extractLsb' 32 8, p.extractLsb' 40 8, p.extractLsb' 48 8, p.extractLsb' 56 8]

/-- The bytes of an operation that has an encoding. -/
def encode : Instr → Option (List Byte)
  | .memRead ctl data addr => some (pinBytes (Machine.pinJoin ctl data addr))
  | .memWrite ctl data addr => some (pinBytes (Machine.pinJoin ctl data addr))
  | .intAck ctl data addr => some (pinBytes (Machine.pinJoin ctl data addr))
  | .ioRead ctl data addr => some (pinBytes (Machine.pinJoin ctl data addr))
  | .ioWrite ctl data addr => some (pinBytes (Machine.pinJoin ctl data addr))
  | .busIdle ctl data addr => some (pinBytes (Machine.pinJoin ctl data addr))
  | .ulaPortWr addr value => some (addrBytes addr ++ [value])
  | .ulaPortRd addr => some (addrBytes addr)
  | .pinPack _ _ _ => none
  | .pinGetAddr _ => none
  | .pinSetAddr _ _ => none
  | .pinGetData _ => none
  | .pinSetData _ _ => none
  | .memRd _ => none
  | .memWr _ _ => none
  | .memLoad _ _ _ => none
  | .ioRegister _ _ => none
  | .ioRd _ => none
  | .ioWr _ _ => none
  | .coreTick _ => none
  | .corePrefetch _ => none
  | .coreIbound => none
  | .coreGetreg _ => none
  | .coreSetreg _ _ => none
  | .cpuTick => none
  | .setInt _ => none
  | .setPc _ => none
  | .ulaTick => none
  | .crtUpdate _ _ _ _ => none
  | .crtRefresh => none
  | .schedBatch => none
  | .schedRun => none
  | .loadRom _ => none
  | .loadScr _ => none
  | .loadSna _ => none
  | .ticksN _ => none
  | .lineEnd => none
  | .fieldEnd => none
  | .fieldsN _ => none
  | .outPort _ _ => none
  | .poke _ _ => none
  | .peek _ => none

/-- The operation an instruction of the opcode table with bits `w` stands for; `none` where the decoder refuses. -/
def decodeTableWord (nbits w : Nat) : Option Instr :=
  match decode (natToBytes (nbits / 8) w) with
  | .ok i => some i
  | .error _ => none

end Sys2Proof
end

