-- ==== Sys2Proof/Config.lean ====
section
/-! DEFINITION. What one machine fixes (00_scope.md R6, R7), and the free values. The configuration is plain data held in State and
changed by no operation, so that a claim over every state is a claim over every configuration (log 5). -/
namespace Sys2Proof

/-- DECAY (R215): a logical right shift, then a mask (all ones for the unmasked reading, 90_conflicts.md C12). R215 gives no shift amount and
only says that DECAY "must be a right shift": DESIGN CHOICE (log 8): every natural number is taken as an amount inside the constraint, 0
(no decay at all) and amounts of 32 or more (the cell forgotten) included; safe, since a claim over every configuration covers more. -/
structure DecayRule where
  shift : Nat
  mask : Sample
  deriving DecidableEq, Repr

/-- One branch of BLEED (R216): shift, mask, then bits forced on. -/
structure BleedRule where
  shift : Nat
  mask : Sample
  force : Sample
  deriving DecidableEq, Repr

/-- Which of several covering devices answers (R144, U1): the first registered, or any of them (log 21). -/
inductive DispatchOrder where
  | registration
  | anyCovering
  deriving DecidableEq, Repr

/-- The parameters of R7. `palette` is indexed by (idx, bright) with `bright` the low bit. BLEED is `bleedExcept` where that lists
(colour, bright), else the branch of `bright`; so every total function of the sixteen palette colours is a value of it (log 8).
BATCH is `batch + 1`, so that 1 <= BATCH <= FRAME_T holds by type (R245, log 6). DESIGN CHOICE (log 7): CLOCK_HZ is a whole
number of hertz and the pacing margins are whole microseconds, where R7 says only positive and non-negative. -/
structure Config where
  topBlank : Nat
  bottomBlank : Nat
  visibleCols : Nat
  screenTop : Nat
  screenLeft : Nat
  intStart : Nat
  ulaMask : BitVec 16
  pixelRepeat : Nat
  palette : Vector Sample 16
  decay : DecayRule
  bleedNormal : BleedRule
  bleedBright : BleedRule
  bleedExcept : List (Sample × Bool × Sample)
  batch : Fin 69888
  snaResume : Addr
  clockHz : Nat
  paceMargin : Nat
  paceSafety : Nat
  dispatch : DispatchOrder
  deriving DecidableEq, Repr

/-- BATCH less one at reset: open, no default (R7, D21; log 6). -/
opaque Config.batchOpen : Fin 69888

/-- SNA_RESUME at reset: open (R7, R267, D29; log 7). -/
opaque Config.snaResumeOpen : Addr

/-- PACE_MARGIN at reset: open (R7, D22; log 7). -/
opaque Config.paceMarginOpen : Nat

/-- PACE_SAFETY at reset: open (R7, D22; log 7). -/
opaque Config.paceSafetyOpen : Nat

/-- The external core's `tick`, over its register file, its hidden state and the pin word (R150, R151; log 1). -/
opaque Config.coreTick : CoreRegs → Nat → PinWord → CoreRegs × Nat × PinWord

/-- The external core's `prefetch` (R152; log 1): the whole of CORE anew and the pin word returned. -/
opaque Config.corePrefetch : CoreRegs → Nat → Addr → CoreRegs × Nat × PinWord

/-- The external core's `instructionBoundary` (R153; log 1). -/
opaque Config.coreBoundary : CoreRegs → Nat → Bool

/-- What a register setter makes of the whole of CORE, but for what the law of R154 fixes (R150, R154; log 1, 2). -/
opaque Config.coreSetter : CoreReg → BitVec 16 → CoreRegs → Nat → CoreRegs × Nat

/-- The host's answer to a quit sample, by draw number (R36, R247; log 16). -/
opaque Config.quitAnswer : Nat → Bool

/-- An external device's `read`, by device, its own state, draw number and address: the byte and the device's state after (R140; log 22). -/
opaque Config.extDeviceRead : Nat → Nat → Nat → Addr → Byte × Nat

/-- An external device's `write`, by device, its own state, address and value: the device's state after (R140; log 22). -/
opaque Config.extDeviceWrite : Nat → Nat → Addr → Byte → Nat

/-- Which covering device answers when any may, by draw number (R144, U1; log 21). -/
opaque Config.dispatchPick : Nat → Nat

end Sys2Proof
end

