-- ==== Sys2Proof/Machine/Params.lean ====
section
/-! DEFINITION. The parameters the source fixes (00_scope.md R6), the derived sizes, the constraints and the defaults of R7, and the three
configuration functions PALETTE, DECAY, BLEED (46_crt_rasterizer.md R214 to R216). -/
namespace Sys2Proof.Machine

/-- R6. -/
def numLines : Nat := 312
def lineT : Nat := 224
def intLen : Nat := 32
def frameT : Nat := 69888
def romEnd : Nat := 0x4000
def memSize : Nat := 65536
def screenH : Nat := 192
def screenCols : Nat := 32
def romImageLen : Nat := 16384
def scrImageLen : Nat := 6912
def snaHeaderLen : Nat := 27
def snaRamLen : Nat := 49152

/-- R6: FLASH_PERIOD, in the five bits of FLASH_CTR. -/
def flashPeriod : BitVec 5 := 16

/-- R7, derived sizes. -/
def visLines (c : Config) : Nat := numLines - c.topBlank - c.bottomBlank
def fbW (c : Config) : Nat := 8 * c.visibleCols * c.pixelRepeat
def fbH (c : Config) : Nat := 2 * visLines c

/-- BATCH (R7); 1 <= BATCH <= FRAME_T by type (R245, R323). -/
def batchT (c : Config) : Nat := c.batch.val + 1

/-- The constraints of R7 that the fields' types do not carry. A model refuses a configuration outside them (U10, U11). It bounds no shift
amount of DECAY: R7's "must be a right shift" holds by the type, and the model takes every amount as inside it (DESIGN CHOICE, log 8). -/
def configOk (c : Config) : Bool :=
  decide (c.topBlank ≤ c.screenTop) && decide (c.screenTop + screenH + c.bottomBlank ≤ numLines)
    && decide (c.screenLeft + screenCols ≤ c.visibleCols) && decide (4 * c.visibleCols ≤ lineT)
    && decide (c.intStart + intLen < lineT) && (c.pixelRepeat == 1 || c.pixelRepeat == 2) && decide (0 < c.clockHz)

/-- R214: the sample of a colour index and bright flag. -/
def palette (c : Config) (idx : BitVec 3) (bright : Bool) : Sample :=
  c.palette.get (idx ++ BitVec.ofBool bright : BitVec 4).toFin

/-- R215: a logical right shift, then a mask. -/
def decay (c : Config) (v : Sample) : Sample := (v >>> c.decay.shift) &&& c.decay.mask

def bleedBranch (r : BleedRule) (v : Sample) : Sample := ((v >>> r.shift) &&& r.mask) ||| r.force

/-- R216: the sample written to the other field's row. -/
def bleed (c : Config) (v : Sample) (bright : Bool) : Sample :=
  match c.bleedExcept.find? (fun e => e.1 == v && e.2.1 == bright) with
  | some e => e.2.2
  | none => bleedBranch (if bright then c.bleedBright else c.bleedNormal) v

/-- R214, the default palette: for each index the normal and the bright sample. -/
def standardPalette : Vector Sample 16 :=
  #v[0x000000FF, 0x000000FF, 0x0000C0FF, 0x0000FFFF, 0xC00000FF, 0xFF0000FF, 0xC000C0FF, 0xFF00FFFF,
     0x00C000FF, 0x00FF00FF, 0x00C0C0FF, 0x00FFFFFF, 0xC0C000FF, 0xFFFF00FF, 0xC0C0C0FF, 0xFFFFFFFF]

/-- The defaults of R7, R214, R215, R216; the parameters R7 leaves open are the opaque constants of Config. -/
def standardConfig : Config where
  topBlank := 16
  bottomBlank := 8
  visibleCols := 44
  screenTop := 64
  screenLeft := 6
  intStart := 0
  ulaMask := 0x0001
  pixelRepeat := 1
  palette := standardPalette
  decay := { shift := 1, mask := 0x7F7F7F7F }
  bleedNormal := { shift := 2, mask := 0x3F3F3F00, force := 0x000000FF }
  bleedBright := { shift := 1, mask := 0x7F7F7F00, force := 0x000000FF }
  bleedExcept := []
  batch := Config.batchOpen
  snaResume := Config.snaResumeOpen
  clockHz := 3500000
  paceMargin := Config.paceMarginOpen
  paceSafety := Config.paceSafetyOpen
  dispatch := .registration

end Sys2Proof.Machine
end

