-- ==== Sys2Proof/Machine/State.lean ====
section
/-! DEFINITION. The state of the block (10_state.md R20) as plain data, in a type of its own; beside it, in another, what the model keeps that
is no state of the block; the reasons a step stops; and the state after reset (70_reset_and_hazards.md R311). -/
namespace Sys2Proof.Machine

/-- MEM (R23): (address, byte) pairs, addresses rising, no listed byte equal to what an unlisted address reads as. -/
abbrev Memory := List Host.Cell

/-- FB (R31): rows (y, cells (x, sample)) in the same form; an unlisted cell is 0. -/
abbrev FrameBuffer := List (Nat × List (Nat × Sample))

/-- CORE (R25): the exposed register file, the rest of the core as one number (log 1), the registers written since the core's last tick,
whose values the law of R154 fixes (log 2), and, for a scripted core, the pin words its next ticks return (R108, R150; log 4). -/
structure CoreState where
  regs : CoreRegs
  hidden : Nat
  held : List CoreReg
  script : Option (List PinWord)
  deriving DecidableEq, Repr

/-- What the last value-returning operation returned (opcode table, "result"; log 13). -/
inductive Result where
  | nothing
  | addr (a : Addr)
  | byte (b : Byte)
  | pins (p : PinWord)
  | bit (b : Bool)
  | value (v : BitVec 16)
  deriving DecidableEq, Repr

/-- The state of the block: exactly the components of R20. -/
@[ext]
structure Block where
  /-- PINS (R21). -/
  pins : PinWord
  /-- INT_LATCH (R22). -/
  intLatch : Bool
  /-- MEM (R23). -/
  mem : Memory
  /-- IOREG (R24), earliest registration first. -/
  ioreg : List (BitVec 16 × Device)
  /-- CORE (R25). -/
  core : CoreState
  /-- LINE (R26). -/
  line : BitVec 9
  /-- LCYC (R27). -/
  lcyc : BitVec 8
  /-- BORDER (R29). -/
  border : BitVec 3
  /-- FLASH_CTR (R30). -/
  flashCtr : BitVec 5
  /-- FB (R31). -/
  fb : FrameBuffer
  /-- FIELD (R32): false is 0, the even rows. -/
  field : Bool
  /-- FLASH_INV (R33). -/
  flashInv : Bool
  /-- TSTATES (R34). -/
  tstates : Nat
  /-- NEXT_FRAME (R35). -/
  nextFrame : Nat
  deriving DecidableEq, Repr

/-- What the model keeps beside the block, none of it state of the block (log 35): the parameters of the run, its inputs and its output, where
in R240's loop the run stands, and what lies outside the block. -/
@[ext]
structure Bench where
  /-- The configuration, constant in a run (R7, R47; log 5). -/
  cfg : Config
  /-- PRESENT, the output stream (R37; log 12), oldest frame first. -/
  present : List FrameBuffer
  /-- T-states issued of the batch in progress: the counter of R240 step 1's loop (log 15). -/
  batchPos : Nat
  /-- A quit sample of the run loop returned true: the run is over (R247, R248; log 17). -/
  ended : Bool
  /-- The host's scripted answers to the next quit samples (R36; log 16). -/
  quits : List Bool
  /-- How many free values have been drawn (log 16, 21, 22). -/
  free : Nat
  /-- Operations issued from outside and not yet run, next first (R108, R260; log 14). -/
  calls : List Instr
  /-- The value returned last (log 13). -/
  result : Result
  /-- The devices' own state, outside the block (R140; log 22): (device, state) pairs, devices rising, an unlisted device in state 0. -/
  devs : List (Nat × Nat)
  deriving DecidableEq, Repr

/-- What a step takes and answers: the block and what the model keeps beside it. -/
@[ext]
structure State extends Block, Bench where
  deriving DecidableEq, Repr

/-- Why the machine stops. -/
inductive Fault where
  /-- LoadError (R281): MEM_LOAD, LOAD_ROM, LOAD_SCR or LOAD_SNA with too short a source. "fatal"; the launch has no run. Safe: the spec's
  own exception. -/
  | loadError
  /-- A step after the run has ended (R248): the process is gone and there is no next state. Safe. -/
  | runEnded
  deriving DecidableEq, Repr

/-- Why the model gives no meaning. -/
inductive Refusal where
  /-- An arm of exec that has no meaning yet. Safe. -/
  | notModelled (mnemonic : String)
  /-- MEM_LOAD past 0xFFFF (R132: "a model refuses such a call"; U6, D30). Safe. -/
  | loadPastEnd
  /-- A step under a configuration outside R7's constraints (U10, U11: refuse). Safe. -/
  | configOutside
  deriving DecidableEq, Repr

/-- The core at reset: the spec leaves it to the core (R311); every register 0, none written yet, and no script (log 3). -/
def CoreState.reset : CoreState where
  regs := { af := 0, bc := 0, de := 0, hl := 0, afAlt := 0, bcAlt := 0, deAlt := 0, hlAlt := 0, ix := 0, iy := 0, sp := 0, pc := 0,
            i := 0, r := 0, im := 0, iff1 := false, iff2 := false }
  hidden := 0
  held := []
  script := none

/-- The machine right after construction (R310, R311) with the launch parameters R47 names: configuration, MEM_INIT, core. -/
def State.launch (cfg : Config) (memInit : Memory) (core : CoreState) : State where
  cfg := cfg
  pins := 0
  intLatch := false
  mem := memInit
  ioreg := [(cfg.ulaMask, .ula)]
  core := core
  line := 0
  lcyc := 0
  border := 0
  flashCtr := flashPeriod
  fb := []
  field := false
  flashInv := false
  tstates := 0
  nextFrame := frameT
  present := []
  batchPos := 0
  ended := false
  quits := []
  free := 0
  calls := []
  result := .nothing
  devs := []

/-- The machine right after reset at the defaults, memory with nothing listed (R311). -/
def State.reset : State := State.launch standardConfig [] CoreState.reset

end Sys2Proof.Machine
end

