-- ==== Sys2Proof/Machine/Ops.lean ====
section
/-! DEFINITION. The named operations over memory, frame buffer and registers, raising the one exception (60_exceptions.md R281), and the
adapter's two interrupt and redirect registers (44_cpu_adapter.md R169, R170). -/
namespace Sys2Proof.Machine

/-- What key `a` holds; `d` where nothing is listed. -/
def cellGet {α : Type} (d : α) : List (Nat × α) → Nat → α
  | [], _ => d
  | c :: m, a => if c.1 = a then c.2 else cellGet d m a

/-- Put a cell before the first larger key. -/
def cellInsert {α : Type} (a : Nat) (v : α) : List (Nat × α) → List (Nat × α)
  | [] => [(a, v)]
  | c :: m => if a < c.1 then (a, v) :: c :: m else c :: cellInsert a v m

/-- Make key `a` hold `v`; storing what an unlisted key reads as removes the entry. -/
def cellSet {α : Type} [DecidableEq α] (d : α) (m : List (Nat × α)) (a : Nat) (v : α) : List (Nat × α) :=
  if v = d then m.filter (fun c => c.1 ≠ a) else cellInsert a v (m.filter (fun c => c.1 ≠ a))

/-- The canonical form: keys strictly rising and below `hi`, no entry equal to what an unlisted key reads as. -/
abbrev Canonical {α : Type} (d : α) (hi : Nat) (m : List (Nat × α)) : Prop :=
  m.Pairwise (fun x y => x.1 < y.1) ∧ ∀ c ∈ m, c.1 < hi ∧ c.2 ≠ d

/-- What a byte of Memory that nothing has written reads as: 0 (MEM_INIT is open; log 10). -/
def unwrittenByte : Byte := 0

/-- The canonical form of Memory, inside the 64 KiB of R23. -/
abbrev Memory.wf (m : Memory) : Prop := Canonical unwrittenByte memSize m

/-- R130, `MemRead(address, 1)`. -/
def memGet (m : Memory) (a : Addr) : Byte := cellGet unwrittenByte m a.toNat

/-- R131, `MemWrite(address, 1, value)`: nothing below 0x4000. -/
def memPut (m : Memory) (a : Addr) (v : Byte) : Memory :=
  if a.toNat < romEnd then m else cellSet unwrittenByte m a.toNat v

/-- The listed cells of consecutive bytes. -/
def bytesAt : Nat → List Byte → Memory
  | _, [] => []
  | a, b :: bs => if b = unwrittenByte then bytesAt (a + 1) bs else (a, b) :: bytesAt (a + 1) bs

/-- R132: the bytes replace what stood at `dest` and after, the read-only region included (R69). -/
def memSplice (m : Memory) (dest : Nat) (bs : List Byte) : Memory :=
  m.filter (fun c => c.1 < dest) ++ bytesAt dest bs ++ m.filter (fun c => dest + bs.length ≤ c.1)

/-- FB[y][x]. -/
def fbGet (fb : FrameBuffer) (y x : Nat) : Sample := cellGet 0 (cellGet [] fb y) x

/-- FB[y][x] <- v. -/
def fbPut (fb : FrameBuffer) (y x : Nat) (v : Sample) : FrameBuffer :=
  cellSet [] fb y (cellSet 0 (cellGet [] fb y) x v)

/-- The canonical form of FB inside the `FB_H x FB_W` cells of R31. -/
abbrev FrameBuffer.wf (c : Config) (fb : FrameBuffer) : Prop :=
  Canonical [] (fbH c) fb ∧ ∀ row ∈ fb, Canonical 0 (fbW c) row.2

/-- A register of the file the core exposes (R154), zero-extended to 16 bits. -/
def regGet (reg : CoreReg) (f : CoreRegs) : BitVec 16 :=
  match reg with
  | .af => f.af
  | .bc => f.bc
  | .de => f.de
  | .hl => f.hl
  | .afAlt => f.afAlt
  | .bcAlt => f.bcAlt
  | .deAlt => f.deAlt
  | .hlAlt => f.hlAlt
  | .ix => f.ix
  | .iy => f.iy
  | .sp => f.sp
  | .pc => f.pc
  | .i => f.i.zeroExtend 16
  | .r => f.r.zeroExtend 16
  | .im => f.im.zeroExtend 16
  | .iff1 => (BitVec.ofBool f.iff1).zeroExtend 16
  | .iff2 => (BitVec.ofBool f.iff2).zeroExtend 16

/-- Write a register with the low bits of `v`, as many as it has (R154). -/
def regSet (reg : CoreReg) (v : BitVec 16) (f : CoreRegs) : CoreRegs :=
  match reg with
  | .af => { f with af := v }
  | .bc => { f with bc := v }
  | .de => { f with de := v }
  | .hl => { f with hl := v }
  | .afAlt => { f with afAlt := v }
  | .bcAlt => { f with bcAlt := v }
  | .deAlt => { f with deAlt := v }
  | .hlAlt => { f with hlAlt := v }
  | .ix => { f with ix := v }
  | .iy => { f with iy := v }
  | .sp => { f with sp := v }
  | .pc => { f with pc := v }
  | .i => { f with i := v.truncate 8 }
  | .r => { f with r := v.truncate 8 }
  | .im => { f with im := v.truncate 8 }
  | .iff1 => { f with iff1 := v.getLsbD 0 }
  | .iff2 => { f with iff2 := v.getLsbD 0 }

/-- The registers of `held` as `old` has them, every other one as `new` has it. -/
def keepHeld (old new : CoreRegs) : List CoreReg → CoreRegs
  | [] => new
  | reg :: held => regSet reg (regGet reg old) (keepHeld old new held)

/-- A device's own state, 0 where nothing is listed (R140; log 22). -/
def devGet (devs : List (Nat × Nat)) (id : Nat) : Nat := cellGet 0 devs id

/-- Make a device's own state `v`. -/
def devSet (devs : List (Nat × Nat)) (id v : Nat) : List (Nat × Nat) := cellSet 0 devs id v

/-- The canonical form of the devices' states: devices rising, no state 0 listed. -/
abbrev devsWf (devs : List (Nat × Nat)) : Prop := ∃ hi, Canonical 0 hi devs

/-- `raise LoadError` (R281): the launch ends and there is no run. -/
def raiseLoadError : Host.Outcome State Fault Refusal := .fault .loadError

/-- R169, `setInterrupt`: the request the controller's timer raises and clears (R187, R283). It reaches the core at the next adapter tick. -/
def setInterrupt (b : Bool) (s : State) : State := { s with intLatch := b }

/-- R165, R286: the byte an acknowledge cycle finds on the data field. -/
def acknowledgeByte : Byte := floatBus

end Sys2Proof.Machine
end

