-- ==== Sys2Proof/Machine/CoreContract.lean ====
section
/-! DEFINITION. The external CPU core's contract (43_cpu_core_contract.md R150 to R154). The core is opaque; a scripted core returns its next
word and ignores its input (R108, R150), and 0 once its script is spent (DESIGN CHOICE, log 4). -/
namespace Sys2Proof.Machine

/-- R151: the core advances one T-state; what R154 says of the registers written before ends here. A scripted core's tick leaves its register
file and its hidden part as they are: R108 and R150 give it only the word it returns (DESIGN CHOICE, log 4). -/
def coreStep (p : PinWord) (c : CoreState) : CoreState × PinWord :=
  match c.script with
  | some (w :: ws) => ({ c with held := [], script := some ws }, w)
  | some [] => ({ c with held := [] }, 0)
  | none =>
    let out := Config.coreTick c.regs c.hidden p
    ({ c with regs := out.1, hidden := out.2.1, held := [] }, out.2.2)

/-- R152: the core redirects execution and returns a pin word. All of CORE is what prefetch makes it, but a register written with no tick
in between reads as written (R154), PC apart, which is prefetch's (R270). -/
def coreRedirect (a : Addr) (c : CoreState) : CoreState × PinWord :=
  let out := Config.corePrefetch c.regs c.hidden a
  let held := c.held.filter (· ≠ .pc)
  ({ c with regs := keepHeld c.regs out.1 held, hidden := out.2.1, held := held }, out.2.2)

/-- R154: write one register of the exposed file. The register reads as written; so do those written before it with no tick in between; the
rest of CORE is what the core's setter makes it (R150). -/
def coreSet (reg : CoreReg) (v : BitVec 16) (c : CoreState) : CoreState :=
  let out := Config.coreSetter reg v c.regs c.hidden
  { c with
    regs := regSet reg v (keepHeld c.regs out.1 c.held)
    hidden := out.2
    held := if reg ∈ c.held then c.held else reg :: c.held }

/-- R151. -/
def execCoreTick (p : PinWord) (s : State) : Host.Outcome State Fault Refusal :=
  .next { s with core := (coreStep p s.core).1, result := .pins (coreStep p s.core).2 }

/-- R152. -/
def execCorePrefetch (a : Addr) (s : State) : Host.Outcome State Fault Refusal :=
  .next { s with core := (coreRedirect a s.core).1, result := .pins (coreRedirect a s.core).2 }

/-- R153: reads CORE, writes nothing. -/
def execCoreIbound (s : State) : Host.Outcome State Fault Refusal :=
  .next { s with result := .bit (Config.coreBoundary s.core.regs s.core.hidden) }

/-- R154. -/
def execCoreGetreg (reg : CoreReg) (s : State) : Host.Outcome State Fault Refusal :=
  .next { s with result := .value (regGet reg s.core.regs) }

/-- R154. -/
def execCoreSetreg (reg : CoreReg) (v : BitVec 16) (s : State) : Host.Outcome State Fault Refusal :=
  .next { s with core := coreSet reg v s.core }

end Sys2Proof.Machine
end

