-- ==== Sys2Proof/Machine/IoRegistry.lean ====
section
/-! DEFINITION. The I/O device registry (42_io_registry.md R140 to R144) and the video-timing controller as a device
(45_video_timing.md R190, R191). -/
namespace Sys2Proof.Machine

/-- R190, the controller's device write. -/
def borderWrite (value : Byte) (s : State) : State := { s with border := borderOf value }

/-- R191, the controller's device read. -/
def controllerRead : Byte := floatBus

/-- The devices whose masks cover an address, earliest registration first. -/
def coveringDevices (ioreg : List (BitVec 16 × Device)) (a : Addr) : List Device :=
  (ioreg.filter (fun e => covers e.1 a)).map (·.2)

/-- R142, R144: the device that answers, and how many free values that took. In registration order it is the first; where any covering
device may answer (U1) and several cover, a free value picks one (log 21). -/
def pickDevice (order : DispatchOrder) (free : Nat) : List Device → Option Device × Nat
  | [] => (none, 0)
  | [d] => (some d, 0)
  | d :: ds =>
    match order with
    | .registration => (some d, 0)
    | .anyCovering => ((d :: ds)[Config.dispatchPick free % (ds.length + 1)]?, 1)

/-- The device that answers a port address, and the state after the choice. -/
def selectDevice (a : Addr) (s : State) : Option Device × State :=
  let pick := pickDevice s.cfg.dispatch s.free (coveringDevices s.ioreg a)
  (pick.1, { s with free := s.free + pick.2 })

/-- R140, `dev.read`: an external device answers from its own state, which it may change (log 22). -/
def deviceRead (d : Device) (a : Addr) (s : State) : Byte × State :=
  match d with
  | .ula => (controllerRead, s)
  | .stub v => (v, s)
  | .ext id =>
    let out := Config.extDeviceRead id (devGet s.devs id) s.free a
    (out.1, { s with free := s.free + 1, devs := devSet s.devs id out.2 })

/-- R140, `dev.write`, with the full port address: only the controller, which does not look at it (R190), has state of this block; an
external device may change its own (log 22). -/
def deviceWrite (d : Device) (a : Addr) (value : Byte) (s : State) : State :=
  match d with
  | .ula => borderWrite value s
  | .stub _ => s
  | .ext id => { s with devs := devSet s.devs id (Config.extDeviceWrite id (devGet s.devs id) a value) }

/-- R142, `IoRead(address)`: the selected device's byte, else the floating bus. -/
def portRead (a : Addr) (s : State) : Byte × State :=
  match (selectDevice a s).1 with
  | some d => deviceRead d a (selectDevice a s).2
  | none => (floatBus, (selectDevice a s).2)

/-- R143, `IoWrite(address, value)`: the selected device is written, else nothing. -/
def portWrite (a : Addr) (value : Byte) (s : State) : State :=
  match (selectDevice a s).1 with
  | some d => deviceWrite d a value (selectDevice a s).2
  | none => (selectDevice a s).2

/-- R141: append, lowest priority. -/
def execIoRegister (mask : BitVec 16) (d : Device) (s : State) : Host.Outcome State Fault Refusal :=
  .next { s with ioreg := s.ioreg ++ [(mask, d)] }

/-- R142. -/
def execIoRd (a : Addr) (s : State) : Host.Outcome State Fault Refusal :=
  .next { (portRead a s).2 with result := .byte (portRead a s).1 }

/-- R143. -/
def execIoWr (a : Addr) (value : Byte) (s : State) : Host.Outcome State Fault Refusal :=
  .next (portWrite a value s)

/-- R190: the address is not looked at. -/
def execUlaPortWr (_a : Addr) (value : Byte) (s : State) : Host.Outcome State Fault Refusal :=
  .next (borderWrite value s)

/-- R191. -/
def execUlaPortRd (_a : Addr) (s : State) : Host.Outcome State Fault Refusal :=
  .next { s with result := .byte controllerRead }

end Sys2Proof.Machine
end

