-- ==== Sys2Proof/Machine/MemoryOps.lean ====
section
/-! DEFINITION. The Memory's operations (41_memory_ops.md R130 to R132). -/
namespace Sys2Proof.Machine

/-- R130. -/
def execMemRd (a : Addr) (s : State) : Host.Outcome State Fault Refusal :=
  .next { s with result := .byte (memGet s.mem a) }

/-- R131. -/
def execMemWr (a : Addr) (v : Byte) (s : State) : Host.Outcome State Fault Refusal :=
  .next { s with mem := memPut s.mem a v }

/-- R132: LoadError on a short source, a refusal past 0xFFFF (U6), else the first `length` bytes stored directly. -/
def loadImage (source : List Byte) (dest : Addr) (length : Nat) (s : State) : Host.Outcome State Fault Refusal :=
  if source.length < length then raiseLoadError
  else if memSize < dest.toNat + length then .refused .loadPastEnd
  else .next { s with mem := memSplice s.mem dest.toNat (source.take length) }

/-- R132. -/
def execMemLoad (source : List Byte) (dest : Addr) (length : Nat) (s : State) : Host.Outcome State Fault Refusal :=
  loadImage source dest length s

end Sys2Proof.Machine
end

