-- ==== Sys2Proof/Machine/Adapter.lean ====
section
/-! DEFINITION. The CPU adapter: the six bus transactions on a word the core returned, the tick that fetches one, `setInterrupt` and
`setProgramCounter` (44_cpu_adapter.md R160 to R172). -/
namespace Sys2Proof.Machine

/-- R163: the byte of Memory goes on the data field. -/
def serveMemRead (p : PinWord) (s : State) : State :=
  { s with pins := placeData p (memGet s.mem (pinGetAddr p)) }

/-- R164: the data field is written to Memory; the word is kept. -/
def serveMemWrite (p : PinWord) (s : State) : State :=
  { s with pins := p, mem := memPut s.mem (pinGetAddr p) (pinGetData p) }

/-- R165: the floating bus goes on the data field; no device is asked. -/
def serveIntAck (p : PinWord) (s : State) : State :=
  { s with pins := placeData p acknowledgeByte }

/-- R166: the registry's byte goes on the data field. -/
def serveIoRead (p : PinWord) (s : State) : State :=
  { (portRead (pinGetAddr p) s).2 with pins := placeData p (portRead (pinGetAddr p) s).1 }

/-- R167: the data field is written to the registry; the word is kept. -/
def serveIoWrite (p : PinWord) (s : State) : State :=
  { portWrite (pinGetAddr p) (pinGetData p) s with pins := p }

/-- R168: the word is kept, data field included. -/
def serveIdle (p : PinWord) (s : State) : State := { s with pins := p }

/-- R163. -/
def execMemRead (ctl : BitVec 40) (data : Byte) (addr : Addr) (s : State) : Host.Outcome State Fault Refusal :=
  .next (serveMemRead (pinJoin ctl data addr) s)

/-- R164. -/
def execMemWrite (ctl : BitVec 40) (data : Byte) (addr : Addr) (s : State) : Host.Outcome State Fault Refusal :=
  .next (serveMemWrite (pinJoin ctl data addr) s)

/-- R165. -/
def execIntAck (ctl : BitVec 40) (data : Byte) (addr : Addr) (s : State) : Host.Outcome State Fault Refusal :=
  .next (serveIntAck (pinJoin ctl data addr) s)

/-- R166. -/
def execIoRead (ctl : BitVec 40) (data : Byte) (addr : Addr) (s : State) : Host.Outcome State Fault Refusal :=
  .next (serveIoRead (pinJoin ctl data addr) s)

/-- R167. -/
def execIoWrite (ctl : BitVec 40) (data : Byte) (addr : Addr) (s : State) : Host.Outcome State Fault Refusal :=
  .next (serveIoWrite (pinJoin ctl data addr) s)

/-- R168. -/
def execBusIdle (ctl : BitVec 40) (data : Byte) (addr : Addr) (s : State) : Host.Outcome State Fault Refusal :=
  .next (serveIdle (pinJoin ctl data addr) s)

/-- R160 step 3 and 4: exactly one transaction, by priority; the word left is PINS. -/
def resolve (p : PinWord) (s : State) : State :=
  match classify p with
  | .memRead => serveMemRead p s
  | .memWrite => serveMemWrite p s
  | .intAck => serveIntAck p s
  | .ioRead => serveIoRead p s
  | .ioWrite => serveIoWrite p s
  | .busIdle => serveIdle p s

/-- R160 steps 1 and 2, the fetch: the word the core returns to the merged pin word, and the state with the core advanced. -/
def fetchWord (s : State) : PinWord × State :=
  let out := coreStep (mergeInt s.pins s.intLatch) s.core
  (out.2, { s with core := out.1 })

/-- R160. -/
def adapterTick (s : State) : State := resolve (fetchWord s).1 (fetchWord s).2

/-- R160. -/
def execCpuTick (s : State) : Host.Outcome State Fault Refusal := .next (adapterTick s)

/-- R169. -/
def execSetInt (b : Bool) (s : State) : Host.Outcome State Fault Refusal := .next (setInterrupt b s)

/-- R170: the word the core's prefetch returns becomes PINS. -/
def setProgramCounter (a : Addr) (s : State) : State :=
  { s with core := (coreRedirect a s.core).1, pins := (coreRedirect a s.core).2 }

/-- R170. -/
def execSetPc (a : Addr) (s : State) : Host.Outcome State Fault Refusal := .next (setProgramCounter a s)

end Sys2Proof.Machine
end

