-- ==== Sys2Proof/Machine/HostLoad.lean ====
section
/-! DEFINITION. The host's loads (48_host_interface.md R261 to R267). -/
namespace Sys2Proof.Machine

/-- R261. -/
def execLoadRom (source : List Byte) (s : State) : Host.Outcome State Fault Refusal :=
  loadImage source 0x0000 romImageLen s

/-- R262. -/
def execLoadScr (source : List Byte) (s : State) : Host.Outcome State Fault Refusal :=
  loadImage source 0x4000 scrImageLen s

/-- R264, R265: the register writes of a snapshot header, in the order of the rule. -/
def snaRegisters (b : List Byte) : List (CoreReg × BitVec 16) :=
  [(.i, (imageByte b 0).zeroExtend 16), (.hlAlt, imageWord b 1), (.deAlt, imageWord b 3), (.bcAlt, imageWord b 5),
   (.afAlt, imageWord b 7), (.hl, imageWord b 9), (.de, imageWord b 11), (.bc, imageWord b 13), (.iy, imageWord b 15),
   (.ix, imageWord b 17), (.iff2, (BitVec.ofBool ((imageByte b 19).getLsbD 2)).zeroExtend 16),
   (.iff1, (BitVec.ofBool ((imageByte b 19).getLsbD 2)).zeroExtend 16), (.r, (imageByte b 20).zeroExtend 16),
   (.af, imageWord b 21), (.sp, imageWord b 23), (.im, (imageByte b 25).zeroExtend 16)]

/-- A run of register writes (R154). -/
def coreSetAll : List (CoreReg × BitVec 16) → CoreState → CoreState
  | [], c => c
  | (reg, v) :: ws, c => coreSetAll ws (coreSet reg v c)

/-- R264: registers, border, RAM, then the redirect to SNA_RESUME. -/
def restoreSnapshot (b : List Byte) (s : State) : State :=
  setProgramCounter s.cfg.snaResume
    { s with
      core := coreSetAll (snaRegisters b) s.core
      border := borderOf (imageByte b 26)
      mem := memSplice s.mem 0x4000 ((b.drop snaHeaderLen).take snaRamLen) }

/-- R264. -/
def execLoadSna (b : List Byte) (s : State) : Host.Outcome State Fault Refusal :=
  if b.length < snaHeaderLen + snaRamLen then raiseLoadError else .next (restoreSnapshot b s)

end Sys2Proof.Machine
end

