-- ==== Sys2Proof/Machine/PinCodec.lean ====
section
/-! DEFINITION. The pin-state codec as operations (40_pin_codec.md R120 to R124): each only returns a value. -/
namespace Sys2Proof.Machine

/-- R120. -/
def execPinPack (flags addr data : BitVec 64) (s : State) : Host.Outcome State Fault Refusal :=
  .next { s with result := .pins (pinPack flags addr data) }

/-- R121. -/
def execPinGetAddr (p : PinWord) (s : State) : Host.Outcome State Fault Refusal :=
  .next { s with result := .addr (pinGetAddr p) }

/-- R122. -/
def execPinSetAddr (p : PinWord) (addr : BitVec 64) (s : State) : Host.Outcome State Fault Refusal :=
  .next { s with result := .pins (pinSetAddr p addr) }

/-- R123. -/
def execPinGetData (p : PinWord) (s : State) : Host.Outcome State Fault Refusal :=
  .next { s with result := .byte (pinGetData p) }

/-- R124. -/
def execPinSetData (p : PinWord) (data : BitVec 64) (s : State) : Host.Outcome State Fault Refusal :=
  .next { s with result := .pins (pinSetData p data) }

end Sys2Proof.Machine
end

