-- ==== Sys2Proof/Machine/Crt.lean ====
section
/-! DEFINITION. The CRT rasterizer (46_crt_rasterizer.md R210 to R222). -/
namespace Sys2Proof.Machine

/-- R210: a raster line is visible. -/
def lineVisible (c : Config) (line : Nat) : Bool :=
  decide (c.topBlank ≤ line) && decide (line < numLines - c.bottomBlank)

/-- R211 step 1, R212. -/
def inGeometry (c : Config) (line column : Nat) : Bool := lineVisible c line && decide (column < c.visibleCols)

/-- R210: the row of the field being drawn. -/
def ownRow (c : Config) (field : Bool) (line : Nat) : Nat := 2 * (line - c.topBlank) + field.toNat

/-- R210: the row of the other field. -/
def adjRow (c : Config) (field : Bool) (line : Nat) : Nat := 2 * (line - c.topBlank) + (1 - field.toNat)

/-- R213: the colour index of a display bit, ink and paper swapped when flash and FLASH_INV are both set. -/
def colourIndex (flashInv : Bool) (attr : Byte) (bit : Bool) : BitVec 3 :=
  if bit != (attrFlash attr && flashInv) then attrInk attr else attrPaper attr

/-- R211 step 4: the colour of pixel `i`. -/
def pixelColour (c : Config) (flashInv : Bool) (display attr : Byte) (i : Nat) : Sample :=
  palette c (colourIndex flashInv attr (pixelBit display i)) (attrBright attr)

/-- R215, R216: one cell of each row. -/
def drawCell (c : Config) (own adj x : Nat) (colour : Sample) (bright : Bool) (fb : FrameBuffer) : FrameBuffer :=
  fbPut (fbPut fb own x (decay c (fbGet fb own x) ||| colour)) adj x (bleed c colour bright)

/-- R217: cell `k` of the `8 * PIXEL_REPEAT` cells of a call belongs to pixel `k div PIXEL_REPEAT`. -/
def drawCells (c : Config) (own adj x0 : Nat) (colour : Nat → Sample) (bright : Bool) : Nat → FrameBuffer → FrameBuffer
  | 0, fb => fb
  | k + 1, fb =>
    drawCell c own adj (x0 + k) (colour (k / c.pixelRepeat)) bright (drawCells c own adj x0 colour bright k fb)

/-- R211, `updatePixels`. -/
def updatePixels (line column : Nat) (display attr : Byte) (s : State) : State :=
  if inGeometry s.cfg line column then
    { s with
      fb :=
        drawCells s.cfg (ownRow s.cfg s.field line) (adjRow s.cfg s.field line) (8 * column * s.cfg.pixelRepeat)
          (pixelColour s.cfg s.flashInv display attr) (attrBright attr) (8 * s.cfg.pixelRepeat) s.fb }
  else s

/-- R221, `refresh`: the frame is handed over, FB is kept. -/
def refresh (s : State) : State := { s with present := s.present ++ [s.fb] }

/-- R211. -/
def execCrtUpdate (line column : Nat) (display attr : Byte) (s : State) : Host.Outcome State Fault Refusal :=
  .next (updatePixels line column display attr s)

/-- R221. -/
def execCrtRefresh (s : State) : Host.Outcome State Fault Refusal := .next (refresh s)

end Sys2Proof.Machine
end

