-- ==== Sys2Proof/Machine/Video.lean ====
section
/-! DEFINITION. The video-timing controller's tick (45_video_timing.md R180 to R188). -/
namespace Sys2Proof.Machine

/-- R28: COLUMN = LCYC div 4. -/
def column (s : State) : Nat := s.lcyc.toNat / 4

/-- R183, R184: a tick that forwards a cell. -/
def forwards (s : State) : Bool :=
  lineVisible s.cfg s.line.toNat && decide (s.lcyc.toNat < s.cfg.visibleCols * 4) && decide (s.lcyc.toNat % 4 = 0)

/-- R102: the raster cell lies in the 256x192 screen rectangle. -/
def inScreen (s : State) : Bool :=
  decide (s.cfg.screenTop ≤ s.line.toNat) && decide (s.line.toNat < s.cfg.screenTop + screenH)
    && decide (s.cfg.screenLeft ≤ column s) && decide (column s < s.cfg.screenLeft + screenCols)

/-- R185: the display and attribute bytes read directly from Memory. -/
def screenCell (s : State) : State :=
  updatePixels s.line.toNat (column s)
    (memGet s.mem (displayAddr (s.line.toNat - s.cfg.screenTop) (column s - s.cfg.screenLeft)))
    (memGet s.mem (attrAddr (s.line.toNat - s.cfg.screenTop) (column s - s.cfg.screenLeft))) s

/-- R186: a zero display byte with the border colour as paper. -/
def borderCell (s : State) : State := updatePixels s.line.toNat (column s) 0 (borderAttr s.border) s

/-- R181 step 3. -/
def forwardCell (s : State) : State :=
  if forwards s then (if inScreen s then screenCell s else borderCell s) else s

/-- R187, R181 step 4: two comparisons on LCYC in line 0. -/
def interruptStep (s : State) : State :=
  if s.line = 0 ∧ s.lcyc.toNat = s.cfg.intStart then setInterrupt true s
  else if s.line = 0 ∧ s.lcyc.toNat = s.cfg.intStart + intLen then setInterrupt false s
  else s

/-- R188, at the end of a field. -/
def endField (s : State) : State :=
  if s.flashCtr - 1 = 0 then
    { s with line := 0, field := !s.field, flashCtr := flashPeriod, flashInv := !s.flashInv }
  else { s with line := 0, field := !s.field, flashCtr := s.flashCtr - 1 }

/-- R188, R181 step 5. -/
def advance (s : State) : State :=
  if s.lcyc + 1 = 224 then
    if s.line + 1 = 312 then endField { s with lcyc := 0 } else { s with lcyc := 0, line := s.line + 1 }
  else { s with lcyc := s.lcyc + 1 }

/-- R181 steps 2 to 5, after the adapter's tick. -/
def controllerSteps (s : State) : State := advance (interruptStep (forwardCell s))

/-- R181. -/
def controllerTick (s : State) : State := controllerSteps (adapterTick s)

/-- R181. -/
def execUlaTick (s : State) : Host.Outcome State Fault Refusal := .next (controllerTick s)

end Sys2Proof.Machine
end

