-- ==== Sys2Proof/Machine/Scheduler.lean ====
section
/-! DEFINITION. The scheduler (47_scheduler.md R240 to R249): the counted T-state, the batch, the run loop, and the run loop cut into T-states
for `step` (70_reset_and_hazards.md R324: "A model steps in T-states"). -/
namespace Sys2Proof.Machine

/-- R241: TSTATES goes up by one after a controller tick. -/
def countTick (s : State) : State := { s with tstates := s.tstates + 1 }

/-- R241: one T-state of the scheduler. -/
def tick (s : State) : State := countTick (controllerTick s)

/-- `n` T-states, nothing between them. -/
def ticks : Nat → State → State
  | 0, s => s
  | n + 1, s => ticks n (tick s)

/-- R242, R243: at most one refresh, and the boundary up by FRAME_T. -/
def frameTest (s : State) : State :=
  if s.nextFrame ≤ s.tstates then { refresh s with nextFrame := s.nextFrame + frameT } else s

/-- R246 in microseconds: how long the scheduler sleeps when `elapsed` microseconds have passed since the start. DESIGN CHOICE (log 7): the
spec gives the wall clock no resolution; `elapsed`, R246's `now - start`, is a whole number of microseconds and not negative. -/
def paceSleep (c : Config) (tstates elapsed : Nat) : Rat :=
  let ahead : Rat := (tstates : Rat) * 1000000 / (c.clockHz : Rat) - (elapsed : Rat)
  if ahead > (c.paceMargin : Rat) then ahead - (c.paceSafety : Rat) else 0

/-- R246: pacing writes no state, however long the sleep. -/
def pace (s : State) : State := s

/-- R247: the host's next scripted answer, else a free value (log 16). -/
def sampleQuit (s : State) : Bool × State :=
  match s.quits with
  | q :: qs => (q, { s with quits := qs })
  | [] => (Config.quitAnswer s.free, { s with free := s.free + 1 })

/-- R240 steps 2 to 4. -/
def endBatch (s : State) : Bool × State := sampleQuit (pace (frameTest s))

/-- R240: one batch and its quit sample. -/
def runBatch (s : State) : Bool × State := endBatch (ticks (batchT s.cfg) s)

/-- R240. The quit sample is returned and nothing more: no rule says what follows a SCHED_BATCH issued by itself, so a true sample does not
end the run (R247, R248 speak of the run loop), and the batch in progress of the run loop keeps its place (DESIGN CHOICE, log 36). -/
def execSchedBatch (s : State) : Host.Outcome State Fault Refusal :=
  .next { (runBatch s).2 with result := .bit (runBatch s).1 }

/-- R248, the loop unrolled once: a batch, then the end of the run, or the loop again as the next operation (log 18). -/
def runLoop (s : State) : State :=
  let out := runBatch s
  if out.1 then { out.2 with ended := true } else { out.2 with calls := .schedRun :: out.2.calls }

/-- R248. -/
def execSchedRun (s : State) : Host.Outcome State Fault Refusal := .next (runLoop s)

/-- The end of one T-state of the run loop: count it, and after BATCH of them make the batch's end (R240 to R247; log 15). -/
def closeTState (s : State) : State :=
  let t := { countTick s with batchPos := s.batchPos + 1 }
  if t.batchPos < batchT t.cfg then t
  else
    let out := endBatch { t with batchPos := 0 }
    { out.2 with ended := out.1 }

/-- What follows the transaction in a T-state of the run loop. -/
def finishTState (s : State) : State := closeTState (controllerSteps s)

end Sys2Proof.Machine
end

