-- ==== Sys2Proof/Machine/Stimulus.lean ====
section
/-! DEFINITION. The stimulus pseudo-operations, each its fixed expansion (30_encoding.md R108). -/
namespace Sys2Proof.Machine

/-- TICKS n. -/
def execTicksN (n : Nat) (s : State) : Host.Outcome State Fault Refusal := .next (ticks n s)

/-- LINE_END: TICKS (LINE_T - LCYC). -/
def execLineEnd (s : State) : Host.Outcome State Fault Refusal := .next (ticks (lineT - s.lcyc.toNat) s)

/-- FIELD_END: TICKS (FRAME_T - (LINE * LINE_T + LCYC)). -/
def execFieldEnd (s : State) : Host.Outcome State Fault Refusal :=
  .next (ticks (frameT - (s.line.toNat * lineT + s.lcyc.toNat)) s)

/-- FIELDS n: TICKS (n * FRAME_T). -/
def execFieldsN (n : Nat) (s : State) : Host.Outcome State Fault Refusal := .next (ticks (n * frameT) s)

/-- One CPU_TICK whose scripted core returns `PIN_PACK(flags, addr, data)`: for this one tick CORE is scripted with that word, then it goes
on with the script it had, or as the bound core (DESIGN CHOICE, log 26). -/
def scriptedTick (flags : PinWord) (addr : Addr) (data : Byte) (s : State) : State :=
  let word := pinPack flags (addr.zeroExtend 64) (data.zeroExtend 64)
  let t := adapterTick { s with core := { s.core with script := some [word] } }
  { t with core := { t.core with script := s.core.script } }

/-- OUT port, v: the core returns `IORQ|WR, port, v`. -/
def execOutPort (port : Addr) (v : Byte) (s : State) : Host.Outcome State Fault Refusal :=
  .next (scriptedTick (maskIORQ ||| maskWR) port v s)

/-- POKE a, v: the core returns `MREQ|WR, a, v`. -/
def execPoke (a : Addr) (v : Byte) (s : State) : Host.Outcome State Fault Refusal :=
  .next (scriptedTick (maskMREQ ||| maskWR) a v s)

/-- PEEK a: the core returns `MREQ|RD, a, 0`; the result is PINS.DATA afterwards. -/
def execPeek (a : Addr) (s : State) : Host.Outcome State Fault Refusal :=
  let t := scriptedTick (maskMREQ ||| maskRD) a 0 s
  .next { t with result := .byte (pinGetData t.pins) }

end Sys2Proof.Machine
end

