-- ==== Sys2Proof/Machine/Dispatch.lean ====
section
/-! DEFINITION. One arm per operation of the block, each one call of its meaning. -/
namespace Sys2Proof.Machine

def exec (i : Instr) (s : State) : Host.Outcome State Fault Refusal :=
  match i with
  -- bus transactions
  | .memRead ctl data addr => Sys2Proof.Machine.execMemRead ctl data addr s
  | .memWrite ctl data addr => Sys2Proof.Machine.execMemWrite ctl data addr s
  | .intAck ctl data addr => Sys2Proof.Machine.execIntAck ctl data addr s
  | .ioRead ctl data addr => Sys2Proof.Machine.execIoRead ctl data addr s
  | .ioWrite ctl data addr => Sys2Proof.Machine.execIoWrite ctl data addr s
  | .busIdle ctl data addr => Sys2Proof.Machine.execBusIdle ctl data addr s
  -- the controller as a device
  | .ulaPortWr addr value => Sys2Proof.Machine.execUlaPortWr addr value s
  | .ulaPortRd addr => Sys2Proof.Machine.execUlaPortRd addr s
  -- pin codec
  | .pinPack flags addr data => Sys2Proof.Machine.execPinPack flags addr data s
  | .pinGetAddr pins => Sys2Proof.Machine.execPinGetAddr pins s
  | .pinSetAddr pins addr => Sys2Proof.Machine.execPinSetAddr pins addr s
  | .pinGetData pins => Sys2Proof.Machine.execPinGetData pins s
  | .pinSetData pins data => Sys2Proof.Machine.execPinSetData pins data s
  -- Memory
  | .memRd addr => Sys2Proof.Machine.execMemRd addr s
  | .memWr addr value => Sys2Proof.Machine.execMemWr addr value s
  | .memLoad source dest length => Sys2Proof.Machine.execMemLoad source dest length s
  -- I/O registry
  | .ioRegister mask device => Sys2Proof.Machine.execIoRegister mask device s
  | .ioRd addr => Sys2Proof.Machine.execIoRd addr s
  | .ioWr addr value => Sys2Proof.Machine.execIoWr addr value s
  -- the external core
  | .coreTick pins => Sys2Proof.Machine.execCoreTick pins s
  | .corePrefetch addr => Sys2Proof.Machine.execCorePrefetch addr s
  | .coreIbound => Sys2Proof.Machine.execCoreIbound s
  | .coreGetreg reg => Sys2Proof.Machine.execCoreGetreg reg s
  | .coreSetreg reg value => Sys2Proof.Machine.execCoreSetreg reg value s
  -- adapter
  | .cpuTick => Sys2Proof.Machine.execCpuTick s
  | .setInt b => Sys2Proof.Machine.execSetInt b s
  | .setPc addr => Sys2Proof.Machine.execSetPc addr s
  -- controller, rasterizer, scheduler
  | .ulaTick => Sys2Proof.Machine.execUlaTick s
  | .crtUpdate line column display attr => Sys2Proof.Machine.execCrtUpdate line column display attr s
  | .crtRefresh => Sys2Proof.Machine.execCrtRefresh s
  | .schedBatch => Sys2Proof.Machine.execSchedBatch s
  | .schedRun => Sys2Proof.Machine.execSchedRun s
  -- host
  | .loadRom source => Sys2Proof.Machine.execLoadRom source s
  | .loadScr source => Sys2Proof.Machine.execLoadScr source s
  | .loadSna source => Sys2Proof.Machine.execLoadSna source s
  -- stimulus
  | .ticksN n => Sys2Proof.Machine.execTicksN n s
  | .lineEnd => Sys2Proof.Machine.execLineEnd s
  | .fieldEnd => Sys2Proof.Machine.execFieldEnd s
  | .fieldsN n => Sys2Proof.Machine.execFieldsN n s
  | .outPort port value => Sys2Proof.Machine.execOutPort port value s
  | .poke addr value => Sys2Proof.Machine.execPoke addr value s
  | .peek addr => Sys2Proof.Machine.execPeek addr s

end Sys2Proof.Machine
end

