-- ==== Sys2Proof/Machine/Step.lean ====
section
/-! DEFINITION. One step. An operation the host has issued is run first (30_encoding.md R108, 48_host_interface.md R260); with none pending the
machine is in its run loop and the step is one T-state of it: the core's pin word is fetched, decoded and run, then the controller's steps,
the count, and at a batch's end the frame test and the quit sample (47_scheduler.md R240, R248; log 14). -/
namespace Sys2Proof.Machine

def step (s : State) : Host.Outcome State Fault Refusal :=
  if configOk s.cfg = false then .refused .configOutside
  else if s.ended then .fault .runEnded
  else
    match s.calls with
    | i :: rest => exec i { s with calls := rest }
    | [] =>
      match exec (decodePin (fetchWord s).1) (fetchWord s).2 with
      | .next t => .next (finishTState t)
      | .fault r => .fault r
      | .refused r => .refused r

/-- Place an instruction of the opcode table where the next step fetches it: a pin word as the word a scripted core returns next (R108), a
port operation as the next operation issued. The step then runs exactly it: nothing else pending, the run not ended (log 14). -/
def State.withFetchWord (s : State) (nbits w : Nat) : State :=
  if nbits = 64 then
    { s with core := { s.core with script := some [BitVec.ofNat 64 w] }, calls := [], ended := false }
  else
    match decodeTableWord nbits w with
    | some i => { s with calls := [i], ended := false }
    | none => s

end Sys2Proof.Machine
end

