-- ==== Sys2Proof/Safety.lean ====
section
/-! DEFINITION. What holds of a machine between steps (10_state.md R42), and how raster, field, flash, interrupt latch and refresh boundary
follow the T-state count. -/
namespace Sys2Proof.Machine

/-- R42, with the canonical form of Memory and of the devices' own states, and the bounds of FB and of every frame presented (R31, R217, R221). -/
structure Inv (s : State) : Prop where
  mem : Memory.wf s.mem
  line : s.line.toNat < 312
  lcyc : s.lcyc.toNat < 224
  flashCtr : 1 ≤ s.flashCtr.toNat ∧ s.flashCtr.toNat ≤ 16
  nextFrame : 0 < s.nextFrame ∧ s.nextFrame % 69888 = 0
  fb : FrameBuffer.wf s.cfg s.fb
  present : ∀ f ∈ s.present, FrameBuffer.wf s.cfg f
  batchPos : s.batchPos < batchT s.cfg
  devs : devsWf s.devs

/-- R196, R193: the raster position, the field parity, the flash counter and the flash inversion are those of the T-state count. -/
structure Phase (s : State) : Prop where
  raster : s.line.toNat * 224 + s.lcyc.toNat = s.tstates % 69888
  lcyc : s.lcyc.toNat < 224
  field : s.field.toNat = s.tstates / 69888 % 2
  flashCtr : s.flashCtr.toNat = 16 - s.tstates / 69888 % 16
  flashInv : s.flashInv.toNat = s.tstates / 69888 / 16 % 2

/-- R192: the latch is set exactly between the tick of line 0 that starts at INT_START and the one that starts at INT_START + 32. -/
def LatchWindow (s : State) : Prop :=
  s.intLatch = decide (s.line = 0 ∧ s.cfg.intStart < s.lcyc.toNat ∧ s.lcyc.toNat ≤ s.cfg.intStart + 32)

/-- R244 at a batch boundary: the next boundary is the first multiple of FRAME_T past TSTATES, and one frame went out per FRAME_T. -/
def Cadence (s : State) : Prop :=
  s.nextFrame = 69888 * (s.tstates / 69888 + 1) ∧ s.present.length = s.tstates / 69888

/-- R244 inside a batch of the run loop: the same of the T-state count at which the batch began. -/
def RunCadence (s : State) : Prop :=
  s.batchPos ≤ s.tstates ∧ s.batchPos < batchT s.cfg ∧ s.nextFrame = 69888 * ((s.tstates - s.batchPos) / 69888 + 1)
    ∧ s.present.length = (s.tstates - s.batchPos) / 69888

/-- The machine is in its run loop and the next step is a T-state of it: a configuration inside R7, no operation issued, no quit seen. -/
def Running (s : State) : Prop := configOk s.cfg = true ∧ s.calls = [] ∧ s.ended = false

/-- The operations the host may be refused or fault on (R281): every other operation completes (R280). -/
def isLoad : Instr → Bool
  | .memLoad _ _ _ => true
  | .loadRom _ => true
  | .loadScr _ => true
  | .loadSna _ => true
  | _ => false

end Sys2Proof.Machine
end

