-- ==== Sys2Proof/Certificates/Slice0/Obligations.lean ====
section
/-! DEFINITION. The statements for the provers, in the spec's order. Each docstring names the rules it formalises. -/
open Sys2Proof Sys2Proof.Machine

/-! Pin codec (40_pin_codec.md). -/

/-- R121 to R124: what each getter and setter of the pin word returns; nothing else changes. -/
def Obligations.CodecOperationsReturn : Prop :=
  ∀ (s : State) (a d p : BitVec 64),
    exec (.pinGetAddr p) s = .next { s with result := .addr (p.extractLsb' 0 16) }
      ∧ exec (.pinSetAddr p a) s = .next { s with result := .pins ((p &&& ~~~0xFFFF#64) ||| (a &&& 0xFFFF#64)) }
      ∧ exec (.pinGetData p) s = .next { s with result := .byte (p.extractLsb' 16 8) }
      ∧ exec (.pinSetData p d) s = .next { s with result := .pins ((p &&& ~~~0xFF0000#64) ||| ((d &&& 0xFF#64) <<< 16)) }

/-- R120, R125: PIN_PACK with its truncations (the spec's own decision D1); the laws of the codec (which the spec marks as derived from
R120 to R124), and how a flag is tested, set and cleared. -/
def Obligations.CodecLaws : Prop :=
  (∀ (s : State) (f a d : BitVec 64), exec (.pinPack f a d) s =
      .next { s with result := .pins ((f &&& 0x7FF000000#64) ||| (a &&& 0xFFFF#64) ||| ((d &&& 0xFF#64) <<< 16)) })
    ∧ ∀ (p f flag : PinWord) (a : Addr) (d : Byte),
        pinGetAddr (pinSetAddr p (a.zeroExtend 64)) = a
          ∧ pinGetData (pinSetData p (d.zeroExtend 64)) = d
          ∧ pinGetData (pinSetAddr p (a.zeroExtend 64)) = pinGetData p
          ∧ pinGetAddr (pinSetData p (d.zeroExtend 64)) = pinGetAddr p
          ∧ pinCtl (pinSetAddr p (a.zeroExtend 64)) = pinCtl p
          ∧ pinCtl (pinSetData p (d.zeroExtend 64)) = pinCtl p
          ∧ pinGetAddr (pinPack f (a.zeroExtend 64) (d.zeroExtend 64)) = a
          ∧ pinGetData (pinPack f (a.zeroExtend 64) (d.zeroExtend 64)) = d
          ∧ pinPack f (a.zeroExtend 64) (d.zeroExtend 64) &&& ctrlMask = f &&& ctrlMask
          ∧ (flagSet p flag = true ↔ p &&& flag ≠ 0) ∧ setFlag p flag = p ||| flag ∧ clearFlag p flag = p &&& ~~~flag

/-! Memory (41_memory_ops.md). -/

/-- R130, R131: a read returns the byte and writes no state; a write does nothing below 0x4000, else stores the byte, and every other byte
and all other state is as before. -/
def Obligations.MemoryReadAndWrite : Prop :=
  ∀ (s : State) (a : Addr) (v : Byte), exec (.memRd a) s = .next { s with result := .byte (memGet s.mem a) }
    ∧ ∃ t, exec (.memWr a v) s = .next t ∧ t = { s with mem := t.mem }
      ∧ ∀ b, memGet t.mem b = if b = a ∧ 0x4000 ≤ a.toNat then v else memGet s.mem b

/-- R133: ROM immutability, exact round trip, no effect elsewhere, MEM_RD changes nothing, each through the operations themselves. -/
def Obligations.MemoryLaws : Prop :=
  ∀ (s : State) (a b : Addr) (v : Byte), ∃ r t u,
    exec (.memRd b) s = .next r ∧ r = { s with result := r.result } ∧ exec (.memWr a v) s = .next t
      ∧ exec (.memRd b) t = .next u ∧ u = { t with result := u.result }
      ∧ (b = a → 0x4000 ≤ a.toNat → u.result = .byte v) ∧ (b = a → a.toNat < 0x4000 → u.result = r.result)
      ∧ (b ≠ a → u.result = r.result)

/-- R132: LoadError on a short source; else exactly `length` bytes are copied, the read-only region included, and nothing else changes.
That a call past 0xFFFF is refused is the model's, after U6 and the spec's own decision D30 (log 20). -/
def Obligations.LoadImageCopiesOrStops : Prop :=
  ∀ (s : State) (src : List Byte) (dest : Addr) (len : Nat),
    (src.length < len → exec (.memLoad src dest len) s = .fault .loadError)
      ∧ (len ≤ src.length → 65536 < dest.toNat + len → exec (.memLoad src dest len) s = .refused .loadPastEnd)
      ∧ (len ≤ src.length → dest.toNat + len ≤ 65536 → ∃ t, exec (.memLoad src dest len) s = .next t
          ∧ t = { s with mem := t.mem }
          ∧ ∀ b : Addr, memGet t.mem b =
              if dest.toNat ≤ b.toNat ∧ b.toNat < dest.toNat + len then src.getD (b.toNat - dest.toNat) 0 else memGet s.mem b)

/-! I/O registry (42_io_registry.md). -/

/-- R94: the coverage rule is `a & m == 0`, for ULA_MASK exactly the even addresses; the two corner masks; one device registered under
0x0001 is asked for every even address and every odd one reads 0xFF. -/
def Obligations.CoverageRule : Prop :=
  (∀ (s : State) (d : Device) (a : Addr), s.ioreg = [(0x0001, d)] →
      (a.toNat % 2 = 0 → (selectDevice a s).1 = some d)
        ∧ (a.toNat % 2 = 1 → exec (.ioRd a) s = .next { s with result := .byte 0xFF }))
    ∧ ∀ (m : BitVec 16) (a : Addr),
        (covers m a = true ↔ ~~~a &&& m = m) ∧ (covers m a = true ↔ a &&& m = 0) ∧ (covers 0x0001 a = true ↔ a.toNat % 2 = 0)
          ∧ covers 0x0000 a = true ∧ (covers 0xFFFF a = true ↔ a = 0)

/-- R141: the entry is appended; an entry under a mask registered before is never the one that answers (in registration order).
Appending is the spec's own decision D19. -/
def Obligations.IoRegisterAppends : Prop :=
  ∀ (s : State) (m : BitVec 16) (d : Device), ∃ t, exec (.ioRegister m d) s = .next t
    ∧ t = { s with ioreg := s.ioreg ++ [(m, d)] }
    ∧ (s.cfg.dispatch = .registration → m ∈ s.ioreg.map (·.1) → ∀ a, (selectDevice a t).1 = (selectDevice a s).1)

/-- R142, R140, R191: the first covering device answers, else the floating bus; nothing else changes but the device's own state and the
count of free values. Registration order is the spec's own decision D19 (log 21); what a stub and another device answer is log 22. -/
def Obligations.IoRdAsksFirstCovering : Prop :=
  ∀ (s : State) (a : Addr), s.cfg.dispatch = .registration ∨ s.ioreg.length ≤ 1 →
    (s.ioreg.find? (fun e => covers e.1 a) = none → exec (.ioRd a) s = .next { s with result := .byte 0xFF })
      ∧ ∀ e, s.ioreg.find? (fun e => covers e.1 a) = some e → exec (.ioRd a) s =
          match e.2 with
          | .ula => .next { s with result := .byte 0xFF }
          | .stub v => .next { s with result := .byte v }
          | .ext id => .next { s with
              free := s.free + 1
              devs := devSet s.devs id (Config.extDeviceRead id (devGet s.devs id) s.free a).2
              result := .byte (Config.extDeviceRead id (devGet s.devs id) s.free a).1 }

/-- R143, R140, R190: the first covering device is written, else nothing: the controller takes BORDER, another device changes its own state.
Registration order is the spec's own decision D19 (log 21, 22). -/
def Obligations.IoWrWritesFirstCovering : Prop :=
  ∀ (s : State) (a : Addr) (v : Byte), s.cfg.dispatch = .registration ∨ s.ioreg.length ≤ 1 →
    (s.ioreg.find? (fun e => covers e.1 a) = none → exec (.ioWr a v) s = .next s)
      ∧ ∀ e, s.ioreg.find? (fun e => covers e.1 a) = some e → exec (.ioWr a v) s =
          match e.2 with
          | .ula => .next { s with border := v.extractLsb' 0 3 }
          | .stub _ => .next s
          | .ext id => .next { s with devs := devSet s.devs id (Config.extDeviceWrite id (devGet s.devs id) a v) }

/-- R144, R140, U1: under either dispatch order a port read and a port write complete, some covering device serves them, and nothing but
BORDER, the device's own state, the returned byte and the count of free values changes. The model's own reading of U1 (log 21, 22). -/
def Obligations.SomeCoveringDeviceServes : Prop :=
  ∀ (s : State) (a : Addr) (v : Byte),
    (∃ t b, exec (.ioRd a) s = .next t ∧ t = { s with free := t.free, devs := t.devs, result := .byte b }
        ∧ ((∀ e ∈ s.ioreg, covers e.1 a = false) ∧ b = 0xFF ∧ t.devs = s.devs
          ∨ ∃ e ∈ s.ioreg, covers e.1 a = true ∧ match e.2 with
              | .ula => b = 0xFF ∧ t.devs = s.devs
              | .stub w => b = w ∧ t.devs = s.devs
              | .ext id => ∃ n, b = (Config.extDeviceRead id (devGet s.devs id) n a).1
                  ∧ ∀ other, devGet t.devs other =
                      if other = id then (Config.extDeviceRead id (devGet s.devs id) n a).2 else devGet s.devs other))
      ∧ ∃ t, exec (.ioWr a v) s = .next t ∧ t = { s with free := t.free, devs := t.devs, border := t.border }
        ∧ ((∀ e ∈ s.ioreg, covers e.1 a = false) ∧ t.border = s.border ∧ t.devs = s.devs
          ∨ ∃ e ∈ s.ioreg, covers e.1 a = true ∧ match e.2 with
              | .ula => t.border = v.extractLsb' 0 3 ∧ t.devs = s.devs
              | .stub _ => t.border = s.border ∧ t.devs = s.devs
              | .ext id => t.border = s.border ∧ ∀ other, devGet t.devs other =
                  if other = id then Config.extDeviceWrite id (devGet s.devs id) a v else devGet s.devs other)

/-- R190, R191: the controller as a device. -/
def Obligations.ControllerPortOperations : Prop :=
  ∀ (s : State) (a : Addr) (v : Byte),
    exec (.ulaPortWr a v) s = .next { s with border := v.extractLsb' 0 3 }
      ∧ exec (.ulaPortRd a) s = .next { s with result := .byte 0xFF }

/-! The core's contract (43_cpu_core_contract.md). -/

/-- R151, R150: the core's tick writes CORE and returns a word. The bound core is the free function of Config; a scripted core returns
its next word, whatever its input (the core as a parameter is the spec's own decision D4). The model's (log 4): a spent script returns 0, and a
scripted core's tick keeps its registers and hidden part. After a tick R154 fixes no register (log 2). -/
def Obligations.CoreTickAdvancesCore : Prop :=
  ∀ (s : State) (p : PinWord),
    (s.core.script = none → exec (.coreTick p) s =
        .next { s with
          core := { s.core with
            regs := (Config.coreTick s.core.regs s.core.hidden p).1
            hidden := (Config.coreTick s.core.regs s.core.hidden p).2.1
            held := [] }
          result := .pins (Config.coreTick s.core.regs s.core.hidden p).2.2 })
      ∧ (∀ w ws, s.core.script = some (w :: ws) → exec (.coreTick p) s =
        .next { s with core := { s.core with held := [], script := some ws }, result := .pins w })
      ∧ (s.core.script = some [] → exec (.coreTick p) s = .next { s with core := { s.core with held := [] }, result := .pins 0 })

/-- R152, R153: prefetch makes the registers and the hidden part of CORE anew and returns a word, both open (R150); instructionBoundary reads
CORE and writes nothing. The clauses on registers written before prefetch read R154's law with R270: no tick in between, they read as written,
PC apart (log 2). The model's (log 34): prefetch keeps the script of a scripted core, and a scripted core's prefetch and instructionBoundary
are the bound core's functions. -/
def Obligations.CorePrefetchAndBoundary : Prop :=
  ∀ (s : State) (a : Addr),
    (∃ t, exec (.corePrefetch a) s = .next t
        ∧ t = { s with core := t.core, result := .pins (Config.corePrefetch s.core.regs s.core.hidden a).2.2 }
        ∧ t.core.script = s.core.script ∧ t.core.hidden = (Config.corePrefetch s.core.regs s.core.hidden a).2.1
        ∧ (∀ reg, reg ∈ t.core.held ↔ reg ∈ s.core.held ∧ reg ≠ .pc)
        ∧ ∀ reg, regGet reg t.core.regs =
            regGet reg (if reg ∈ t.core.held then s.core.regs else (Config.corePrefetch s.core.regs s.core.hidden a).1))
      ∧ exec .coreIbound s = .next { s with result := .bit (Config.coreBoundary s.core.regs s.core.hidden) }

/-- R154: a get returns the register and writes no other state; after a set it returns the value, for every register and every value of
its width, and so do the registers set before it with no tick in between; only CORE is written, and what the setter makes of the rest of it
is open (R150). The width of IM and the field `held` are the model's (log 2), and so is that a setter keeps the script of a scripted core,
whose setters are the bound core's function (log 34). -/
def Obligations.CoreSetThenGet : Prop :=
  (∀ (s : State) (reg : CoreReg), exec (.coreGetreg reg) s = .next { s with result := .value (regGet reg s.core.regs) })
    ∧ ∀ (s : State) (reg : CoreReg) (v : BitVec 16), v.toNat < 2 ^ reg.width →
        ∃ t, exec (.coreSetreg reg v) s = .next t ∧ t = { s with core := t.core } ∧ t.core.script = s.core.script
          ∧ t.core.hidden = (Config.coreSetter reg v s.core.regs s.core.hidden).2
          ∧ exec (.coreGetreg reg) t = .next { t with result := .value v }
          ∧ (∀ other, other ∈ t.core.held ↔ other = reg ∨ other ∈ s.core.held)
          ∧ ∀ other, other ≠ reg → regGet other t.core.regs =
              regGet other (if other ∈ s.core.held then s.core.regs else (Config.coreSetter reg v s.core.regs s.core.hidden).1)

/-! Bus transactions and the adapter (44_cpu_adapter.md). -/

/-- R163: MEM_READ, its condition and its effect; flags, address and all other state as they were. -/
def Obligations.MemReadTransaction : Prop :=
  (∀ p : PinWord, p &&& 0xA000000#64 = 0xA000000#64 → decodePin p = .memRead (pinCtl p) (pinGetData p) (pinGetAddr p))
    ∧ ∀ (s : State) (ctl : BitVec 40) (data : Byte) (addr : Addr),
        exec (.memRead ctl data addr) s = .next { s with pins := pinJoin ctl (memGet s.mem addr) addr }

/-- R164: MEM_WRITE, its condition and its effect; the word is kept, every byte but the one stored is as before. -/
def Obligations.MemWriteTransaction : Prop :=
  (∀ p : PinWord, p &&& 0x12000000#64 = 0x12000000#64 → p &&& 0xA000000#64 ≠ 0xA000000#64 →
      decodePin p = .memWrite (pinCtl p) (pinGetData p) (pinGetAddr p))
    ∧ ∀ (s : State) (ctl : BitVec 40) (data : Byte) (addr : Addr), ∃ t,
        exec (.memWrite ctl data addr) s = .next t ∧ t = { s with pins := pinJoin ctl data addr, mem := t.mem }
          ∧ ∀ b, memGet t.mem b = if b = addr ∧ 0x4000 ≤ addr.toNat then data else memGet s.mem b

/-- R165, R286: INT_ACK, its condition and its effect; no device, no other state. Its place before IO_READ is the spec's own decision
D2. -/
def Obligations.IntAckTransaction : Prop :=
  (∀ p : PinWord, p &&& 0x5000000#64 = 0x5000000#64 → p &&& 0xA000000#64 ≠ 0xA000000#64 →
      p &&& 0x12000000#64 ≠ 0x12000000#64 → decodePin p = .intAck (pinCtl p) (pinGetData p) (pinGetAddr p))
    ∧ ∀ (s : State) (ctl : BitVec 40) (data : Byte) (addr : Addr),
        exec (.intAck ctl data addr) s = .next { s with pins := pinJoin ctl 0xFF addr }

/-- R166: IO_READ, its condition and its effect: what IO_RD returns goes on the data field, in the machine in scope 0xFF. -/
def Obligations.IoReadTransaction : Prop :=
  (∀ p : PinWord, p &&& 0xC000000#64 = 0xC000000#64 → p &&& 0xA000000#64 ≠ 0xA000000#64 →
      p &&& 0x12000000#64 ≠ 0x12000000#64 → p &&& 0x5000000#64 ≠ 0x5000000#64 →
      decodePin p = .ioRead (pinCtl p) (pinGetData p) (pinGetAddr p))
    ∧ ∀ (s : State) (ctl : BitVec 40) (data : Byte) (addr : Addr), ∃ u b,
        exec (.ioRd addr) s = .next u ∧ u.result = .byte b
          ∧ exec (.ioRead ctl data addr) s = .next { u with result := s.result, pins := pinJoin ctl b addr }
          ∧ ((∀ e ∈ s.ioreg, e.2 = .ula) → b = 0xFF)

/-- R167: IO_WRITE, its condition and its effect: what IO_WR does; the word is kept; with the one device of the machine in scope an even
address sets BORDER and an odd one does nothing. -/
def Obligations.IoWriteTransaction : Prop :=
  (∀ p : PinWord, p &&& 0x14000000#64 = 0x14000000#64 → p &&& 0xA000000#64 ≠ 0xA000000#64 →
      p &&& 0x12000000#64 ≠ 0x12000000#64 → p &&& 0x5000000#64 ≠ 0x5000000#64 → p &&& 0xC000000#64 ≠ 0xC000000#64 →
      decodePin p = .ioWrite (pinCtl p) (pinGetData p) (pinGetAddr p))
    ∧ ∀ (s : State) (ctl : BitVec 40) (data : Byte) (addr : Addr), ∃ u,
        exec (.ioWr addr data) s = .next u ∧ exec (.ioWrite ctl data addr) s = .next { u with pins := pinJoin ctl data addr }
          ∧ (s.ioreg = [(0x0001, .ula)] →
              u = if addr.toNat % 2 = 0 then { s with border := data.extractLsb' 0 3 } else s)

/-- R168: BUS_IDLE, its condition and its effect: the word is kept, data field included. The spec's own decisions D2 and D35. -/
def Obligations.BusIdleTransaction : Prop :=
  (∀ p : PinWord, p &&& 0xA000000#64 ≠ 0xA000000#64 → p &&& 0x12000000#64 ≠ 0x12000000#64 →
      p &&& 0x5000000#64 ≠ 0x5000000#64 → p &&& 0xC000000#64 ≠ 0xC000000#64 → p &&& 0x14000000#64 ≠ 0x14000000#64 →
      decodePin p = .busIdle (pinCtl p) (pinGetData p) (pinGetAddr p))
    ∧ ∀ (s : State) (ctl : BitVec 40) (data : Byte) (addr : Addr),
        exec (.busIdle ctl data addr) s = .next { s with pins := pinJoin ctl data addr }

/-- R160, R161, R171: the latch is merged into bit 30 of PINS, the core ticks on that word, the transaction of the word it returns is
run; PINS keeps the flags and address the core returned; only PINS, CORE, MEM, BORDER, another device's own state (log 22) and the count of
free values can change. The spec's own decisions D3, D4, D26. -/
def Obligations.AdapterTickRunsOneTransaction : Prop :=
  ∀ s : State, ∃ p t,
    (∀ i : Nat, i < 64 → p.getLsbD i = if i = 30 then s.intLatch else s.pins.getLsbD i)
      ∧ exec .cpuTick s = .next t
      ∧ exec (decodePin (coreStep p s.core).2) { s with core := (coreStep p s.core).1 } = .next t
      ∧ t = { s with
          pins := t.pins, core := (coreStep p s.core).1, mem := t.mem, border := t.border, free := t.free, devs := t.devs }
      ∧ pinCtl t.pins = pinCtl (coreStep p s.core).2 ∧ pinGetAddr t.pins = pinGetAddr (coreStep p s.core).2

/-- R169, R170: SET_INT writes the latch and nothing else; SET_PC stores in PINS the word CORE_PREFETCH returns and leaves the latch.
What SET_PC does with the word is the spec's own decision D28. -/
def Obligations.SetIntAndSetPc : Prop :=
  ∀ (s : State) (b : Bool) (a : Addr), exec (.setInt b) s = .next { s with intLatch := b }
    ∧ ∃ u w, exec (.corePrefetch a) s = .next u ∧ u.result = .pins w
      ∧ exec (.setPc a) s = .next { u with result := s.result, pins := w }

/-! Video-timing controller (45_video_timing.md). -/

/-- R181, R182, R184 to R186: the adapter's tick comes first; then at a column boundary inside the window exactly one CRT_UPDATE, a
screen cell with the two bytes of Memory or a border cell with the border attribute, after the adapter's effects; what else can change.
The spec's own decisions D7, D8, D32. -/
def Obligations.ControllerTickForwardsCell : Prop :=
  ∀ s : State, ∃ a t, exec .cpuTick s = .next a ∧ exec .ulaTick s = .next t
    ∧ t = { a with
        fb := t.fb, intLatch := t.intLatch, lcyc := t.lcyc, line := t.line, field := t.field, flashCtr := t.flashCtr,
        flashInv := t.flashInv }
    ∧ (if s.cfg.topBlank ≤ s.line.toNat ∧ s.line.toNat < 312 - s.cfg.bottomBlank ∧ s.lcyc.toNat < s.cfg.visibleCols * 4
          ∧ s.lcyc.toNat % 4 = 0 then
        if s.cfg.screenTop ≤ s.line.toNat ∧ s.line.toNat < s.cfg.screenTop + 192 ∧ s.cfg.screenLeft ≤ s.lcyc.toNat / 4
            ∧ s.lcyc.toNat / 4 < s.cfg.screenLeft + 32 then
          ∃ u, exec (.crtUpdate s.line.toNat (s.lcyc.toNat / 4)
              (memGet a.mem (displayAddr (s.line.toNat - s.cfg.screenTop) (s.lcyc.toNat / 4 - s.cfg.screenLeft)))
              (memGet a.mem (attrAddr (s.line.toNat - s.cfg.screenTop) (s.lcyc.toNat / 4 - s.cfg.screenLeft)))) a = .next u
            ∧ t.fb = u.fb
        else ∃ u, exec (.crtUpdate s.line.toNat (s.lcyc.toNat / 4) 0 (a.border.zeroExtend 8 <<< 3)) a = .next u ∧ t.fb = u.fb
      else t.fb = s.fb)

/-- R187: after the tick the latch is set if the tick began at (0, INT_START), clear if at (0, INT_START + 32), else as it was. The
spec's own decisions D5, D6. -/
def Obligations.ControllerTickTimesInterrupt : Prop :=
  ∀ s : State, ∃ t, exec .ulaTick s = .next t
    ∧ (s.line = 0 → s.lcyc.toNat = s.cfg.intStart → t.intLatch = true)
    ∧ (s.line = 0 → s.lcyc.toNat = s.cfg.intStart + 32 → t.intLatch = false)
    ∧ (¬(s.line = 0 ∧ (s.lcyc.toNat = s.cfg.intStart ∨ s.lcyc.toNat = s.cfg.intStart + 32)) → t.intLatch = s.intLatch)

/-- R188: the advance of the raster, the field toggle and the flash counter, in the ranges of R42. The place of the FIELD toggle is the
spec's own decision D12. -/
def Obligations.ControllerTickAdvancesRaster : Prop :=
  ∀ s : State, s.line.toNat < 312 → s.lcyc.toNat < 224 → 1 ≤ s.flashCtr.toNat → s.flashCtr.toNat ≤ 16 →
    ∃ t, exec .ulaTick s = .next t
      ∧ t.lcyc.toNat = (if s.lcyc.toNat + 1 = 224 then 0 else s.lcyc.toNat + 1)
      ∧ t.line.toNat = (if s.lcyc.toNat + 1 = 224 then (if s.line.toNat + 1 = 312 then 0 else s.line.toNat + 1) else s.line.toNat)
      ∧ (if s.lcyc.toNat + 1 = 224 ∧ s.line.toNat + 1 = 312 then
          t.field = !s.field ∧ t.flashCtr.toNat = (if s.flashCtr.toNat = 1 then 16 else s.flashCtr.toNat - 1)
            ∧ t.flashInv = (if s.flashCtr.toNat = 1 then !s.flashInv else s.flashInv)
        else t.field = s.field ∧ t.flashCtr = s.flashCtr ∧ t.flashInv = s.flashInv)

/-- R96: the display address is the stated bit layout, lies in the bitmap, and every bitmap address is that of exactly one (row, col).
The bijection is the spec's own derivation. -/
def Obligations.DisplayAddressBijection : Prop :=
  (∀ row col : Nat, row < 192 → col < 32 →
      (displayAddr row col).toNat = 0x4000 + row / 64 * 2048 + row % 8 * 256 + row / 8 % 8 * 32 + col)
    ∧ ∀ a : Nat, 0x4000 ≤ a → a < 0x5800 → ∃ row col, row < 192 ∧ col < 32 ∧ (displayAddr row col).toNat = a
        ∧ ∀ row' col', row' < 192 → col' < 32 → (displayAddr row' col').toNat = a → row' = row ∧ col' = col

/-- R97: the attribute address, linear in character rows, as a bit layout, inside the attribute region; eight rows share one byte. -/
def Obligations.AttributeAddressLinear : Prop :=
  ∀ row col : Nat, row < 192 → col < 32 →
    (attrAddr row col).toNat = 0x5800 + row / 8 * 32 + col
      ∧ attrAddr row col = 0x5800#16 ||| (BitVec.ofNat 16 (row / 8) <<< 5) ||| BitVec.ofNat 16 col
      ∧ 0x5800 ≤ (attrAddr row col).toNat ∧ (attrAddr row col).toNat < 0x5B00
      ∧ ∀ row', row' / 8 = row / 8 → attrAddr row' col = attrAddr row col

/-! CRT rasterizer (46_crt_rasterizer.md). -/

/-- R211, with R210, R213, R215 to R217: the cells of one call, own row decayed and OR-ed, other row the bleed variant; every other cell and
all other state as before. The geometry, the two rows and the colour functions are the spec's own decisions (D13 to D17, D32). -/
def Obligations.CrtUpdateDrawsEightPixels : Prop :=
  ∀ (s : State) (line column : Nat) (display attr : Byte),
    ∃ t, exec (.crtUpdate line column display attr) s = .next t ∧ t = { s with fb := t.fb }
      ∧ (s.cfg.topBlank ≤ line ∧ line < 312 - s.cfg.bottomBlank ∧ column < s.cfg.visibleCols →
          ∀ y x : Nat,
            let own := 2 * (line - s.cfg.topBlank) + s.field.toNat
            let adj := 2 * (line - s.cfg.topBlank) + (1 - s.field.toNat)
            let pixel := x / s.cfg.pixelRepeat - 8 * column
            let swap := attr.getLsbD 7 && s.flashInv
            let ink := if swap then attr.extractLsb' 3 3 else attr.extractLsb' 0 3
            let paper := if swap then attr.extractLsb' 0 3 else attr.extractLsb' 3 3
            let colour := palette s.cfg (if display.getLsbD (7 - pixel) then ink else paper) (attr.getLsbD 6)
            fbGet t.fb y x =
              if 8 * column * s.cfg.pixelRepeat ≤ x ∧ x < 8 * (column + 1) * s.cfg.pixelRepeat then
                if y = own then decay s.cfg (fbGet s.fb y x) ||| colour
                else if y = adj then bleed s.cfg colour (attr.getLsbD 6) else fbGet s.fb y x
              else fbGet s.fb y x)

/-- R212: a call outside the geometry or in a blanking interval is ignored: it writes nothing. -/
def Obligations.CrtUpdateIgnoresOutside : Prop :=
  ∀ (s : State) (line column : Nat) (display attr : Byte),
    ¬(s.cfg.topBlank ≤ line ∧ line < 312 - s.cfg.bottomBlank ∧ column < s.cfg.visibleCols) →
      exec (.crtUpdate line column display attr) s = .next s

/-- R214 to R216: the default palette, decay and bleed. The spec's own decisions D14 to D17. -/
def Obligations.DefaultColourFunctions : Prop :=
  (∀ (idx : BitVec 3) (bright : Bool), palette standardConfig idx bright =
      (let level : Byte := if bright then 0xFF else 0xC0
       let on (b : Bool) : Byte := if b then level else 0
       (on (idx.getLsbD 1) ++ on (idx.getLsbD 2) ++ on (idx.getLsbD 0) ++ (0xFF : Byte) : BitVec 32)))
    ∧ ∀ v : Sample, decay standardConfig v = (v >>> 1) &&& 0x7F7F7F7F#32
      ∧ bleed standardConfig v false = ((v >>> 2) &&& 0x3F3F3F00#32) ||| 0x000000FF#32
      ∧ bleed standardConfig v true = ((v >>> 1) &&& 0x7F7F7F00#32) ||| 0x000000FF#32

/-- R219: with the defaults each eight-bit lane is blended and bled by itself; alpha of a bleed is 0xFF. The spec's own derivation. -/
def Obligations.ColourLanesIndependent : Prop :=
  ∀ (v c : Sample) (bright : Bool),
    (∀ lane : Nat, lane < 4 → (decay standardConfig v ||| c).extractLsb' (8 * lane) 8 =
        ((v.extractLsb' (8 * lane) 8) >>> 1) ||| c.extractLsb' (8 * lane) 8)
      ∧ (∀ lane : Nat, 1 ≤ lane → lane < 4 → (bleed standardConfig c bright).extractLsb' (8 * lane) 8 =
          (c.extractLsb' (8 * lane) 8) >>> (if bright then 1 else 2))
      ∧ (bleed standardConfig c bright).extractLsb' 0 8 = 0xFF

/-- R221: one frame, the whole of FB as it stands, is appended; FB is not cleared. The spec's own decision D36; PRESENT is held in State
(log 12). -/
def Obligations.RefreshAppendsFrame : Prop :=
  ∀ s : State, exec .crtRefresh s = .next { s with present := s.present ++ [s.fb] }

/-! Scheduler (47_scheduler.md). -/

/-- R240 to R243, R246, R247: BATCH T-states, then at most one refresh with the boundary moved, no effect of pacing, one quit sample:
the host's next scripted answer, else the free one (log 16). That a true sample of a SCHED_BATCH issued by itself does not end the run is the
model's (log 36). The spec's own decisions D20, D21, D22, D27. -/
def Obligations.BatchRunsTicksThenTests : Prop :=
  ∀ s : State, ∃ u q, exec (.ticksN (batchT s.cfg)) s = .next u
    ∧ q = (match u.quits with | [] => Config.quitAnswer u.free | b :: _ => b)
    ∧ exec .schedBatch s = .next { u with
        present := if u.nextFrame ≤ u.tstates then u.present ++ [u.fb] else u.present
        nextFrame := if u.nextFrame ≤ u.tstates then u.nextFrame + 69888 else u.nextFrame
        quits := u.quits.tail
        free := if u.quits = [] then u.free + 1 else u.free
        result := .bit q }

/-- R248, one turn of the loop (log 18): a batch, then the end of the run when its quit sample is true, else the loop again next. -/
def Obligations.RunLoopRepeatsUntilQuit : Prop :=
  ∀ s : State, ∃ t q, exec .schedBatch s = .next t ∧ t.result = .bit q
    ∧ exec .schedRun s = .next (if q then { t with result := s.result, ended := true }
        else { t with result := s.result, calls := .schedRun :: t.calls })

/-- R244: after every batch one refresh has been made per 69888 T-states and the boundary is the next multiple. The spec's own
derivation; BATCH in its range by type (log 6). -/
def Obligations.BatchKeepsCadence : Prop :=
  ∀ s : State, Cadence s → ∃ t, exec .schedBatch s = .next t ∧ Cadence t ∧ t.tstates = s.tstates + batchT s.cfg
    ∧ 1 ≤ batchT s.cfg ∧ batchT s.cfg ≤ 69888

/-- R240, R324: BATCH steps of the running machine from the start of a batch are one SCHED_BATCH, with the run ended if its sample was
true. The model's cut of the loop (log 15). -/
def Obligations.StepsMakeOneBatch : Prop :=
  ∀ s : State, Running s → s.batchPos = 0 → ∃ t q, exec .schedBatch s = .next t ∧ t.result = .bit q
    ∧ Host.Core.run Sys2Proof.core (batchT s.cfg) s = .next { t with result := s.result, ended := q }

/-! Host loads (48_host_interface.md). -/

/-- R261, R262, R104: the ROM image and the screen dump: LoadError when short, else exactly their bytes are copied, the excess ignored.
That the excess is ignored is the spec's own decision D33. -/
def Obligations.LoadRomAndScreenCopyImages : Prop :=
  ∀ (s : State) (src : List Byte),
    (src.length < 16384 → exec (.loadRom src) s = .fault .loadError)
      ∧ (16384 ≤ src.length → ∃ t, exec (.loadRom src) s = .next t ∧ t = { s with mem := t.mem }
          ∧ ∀ b : Addr, memGet t.mem b = if b.toNat < 0x4000 then src.getD b.toNat 0 else memGet s.mem b)
      ∧ (src.length < 6912 → exec (.loadScr src) s = .fault .loadError)
      ∧ (6912 ≤ src.length → ∃ t, exec (.loadScr src) s = .next t ∧ t = { s with mem := t.mem }
          ∧ ∀ b : Addr, memGet t.mem b =
              if 0x4000 ≤ b.toNat ∧ b.toNat < 0x5B00 then src.getD (b.toNat - 0x4000) 0 else memGet s.mem b)

/-- R264 to R267, R270, R103: the snapshot: LoadError when short; else the header's registers, the border, the RAM image, then SET_PC,
after which every register but PC reads what was loaded, as R154's law has it. The spec's own decisions D28, D29; the field `held` is the
model's (log 2), and so is that the setters keep the script of a scripted core (log 34). -/
def Obligations.LoadSnaRestoresMachine : Prop :=
  ∀ (s : State) (b : List Byte),
    (b.length < 27 + 49152 → exec (.loadSna b) s = .fault .loadError)
      ∧ (27 + 49152 ≤ b.length → ∃ u t, exec (.loadSna b) s = .next t ∧ exec (.setPc s.cfg.snaResume) u = .next t
          ∧ u = { s with core := u.core, border := (b.getD 26 0).extractLsb' 0 3, mem := u.mem }
          ∧ (∀ a : Addr, memGet u.mem a = if 0x4000 ≤ a.toNat then b.getD (27 + (a.toNat - 0x4000)) 0 else memGet s.mem a)
          ∧ u.core.script = s.core.script
          ∧ (∀ reg, reg ≠ .pc → regGet reg t.core.regs = regGet reg u.core.regs)
          ∧ u.core.regs =
              { i := b.getD 0 0
                hlAlt := b.getD 2 0 ++ b.getD 1 0
                deAlt := b.getD 4 0 ++ b.getD 3 0
                bcAlt := b.getD 6 0 ++ b.getD 5 0
                afAlt := b.getD 8 0 ++ b.getD 7 0
                hl := b.getD 10 0 ++ b.getD 9 0
                de := b.getD 12 0 ++ b.getD 11 0
                bc := b.getD 14 0 ++ b.getD 13 0
                iy := b.getD 16 0 ++ b.getD 15 0
                ix := b.getD 18 0 ++ b.getD 17 0
                iff2 := (b.getD 19 0).getLsbD 2
                iff1 := (b.getD 19 0).getLsbD 2
                r := b.getD 20 0
                af := b.getD 22 0 ++ b.getD 21 0
                sp := b.getD 24 0 ++ b.getD 23 0
                im := b.getD 25 0
                pc := u.core.regs.pc })

/-! Stimulus notation (30_encoding.md R108). -/

/-- R108: TICKS n by its expansion; LINE_END, FIELD_END and FIELDS n as the T-state counts they expand to. The spec's own decision D31. -/
def Obligations.TickNotationExpands : Prop :=
  ∀ (s : State) (n : Nat),
    exec (.ticksN 0) s = .next s
      ∧ (∃ a t, exec .ulaTick s = .next a ∧ exec (.ticksN n) { a with tstates := a.tstates + 1 } = .next t
          ∧ exec (.ticksN (n + 1)) s = .next t)
      ∧ exec .lineEnd s = exec (.ticksN (224 - s.lcyc.toNat)) s
      ∧ exec .fieldEnd s = exec (.ticksN (69888 - (s.line.toNat * 224 + s.lcyc.toNat))) s
      ∧ exec (.fieldsN n) s = exec (.ticksN (n * 69888)) s
      ∧ (∃ t, exec .lineEnd s = .next t) ∧ (∃ t, exec .fieldEnd s = .next t) ∧ ∃ t, exec (.fieldsN n) s = .next t

/-- R108, R154: OUT, POKE and PEEK are one CPU_TICK with CORE scripted to return the word of the rule, and so the transactions IO_WRITE,
MEM_WRITE and MEM_READ on that word after a tick of the core; PEEK returns the byte. The spec's own decision D31; the script after the tick
and what a scripted core's tick leaves of CORE are the model's (log 4, 26). -/
def Obligations.PortAndMemoryNotationExpands : Prop :=
  ∀ (s : State) (a : Addr) (v : Byte),
    (∃ t u, exec (.outPort a v) s = .next t ∧ exec (.ioWrite 0x14 v a) { s with core := { s.core with held := [] } } = .next t
        ∧ exec .cpuTick { s with core := { s.core with script := some [pinJoin 0x14 v a] } } = .next u
        ∧ t = { u with core := { u.core with script := s.core.script } })
      ∧ (∃ t u, exec (.poke a v) s = .next t ∧ exec (.memWrite 0x12 v a) { s with core := { s.core with held := [] } } = .next t
        ∧ exec .cpuTick { s with core := { s.core with script := some [pinJoin 0x12 v a] } } = .next u
        ∧ t = { u with core := { u.core with script := s.core.script } })
      ∧ ∃ t u, exec (.memRead 0x0A 0 a) { s with core := { s.core with held := [] } } = .next t
        ∧ exec (.peek a) s = .next { t with result := .byte (memGet s.mem a) }
        ∧ exec .cpuTick { s with core := { s.core with script := some [pinJoin 0x0A 0 a] } } = .next u
        ∧ t = { u with core := { u.core with script := s.core.script } }

/-- R108, R188: LINE_END ends at the start of the next line, FIELD_END at (0, 0) with the field toggled. The spec's own decisions D12,
D31. -/
def Obligations.LineAndFieldEndReachBoundary : Prop :=
  ∀ s : State, s.line.toNat < 312 → s.lcyc.toNat < 224 →
    (∃ t, exec .lineEnd s = .next t ∧ t.lcyc = 0 ∧ t.line.toNat = (s.line.toNat + 1) % 312
        ∧ t.tstates = s.tstates + (224 - s.lcyc.toNat))
      ∧ ∃ t, exec .fieldEnd s = .next t ∧ t.lcyc = 0 ∧ t.line = 0 ∧ t.field = !s.field
        ∧ t.tstates = s.tstates + (69888 - (s.line.toNat * 224 + s.lcyc.toNat))

/-! Step. -/

/-- R160, R181, R240 (log 14, 15): a step of the running machine fetches the core's word, runs the transaction it decodes to, then the
controller's steps, the count, and at a batch's end the frame test and the quit sample. -/
def Obligations.StepRunsFetchedTransaction : Prop :=
  ∀ s : State, Running s → ∃ a u, exec (decodePin (fetchWord s).1) (fetchWord s).2 = .next a ∧ exec .cpuTick s = .next a
    ∧ exec .ulaTick s = .next u ∧ step s = .next (finishTState a)
    ∧ finishTState a = closeTState u
    ∧ (s.batchPos + 1 < batchT s.cfg → closeTState u = { u with tstates := u.tstates + 1, batchPos := u.batchPos + 1 })
    ∧ (batchT s.cfg ≤ s.batchPos + 1 → closeTState u =
        { (endBatch { u with tstates := u.tstates + 1, batchPos := 0 }).2 with
          ended := (endBatch { u with tstates := u.tstates + 1, batchPos := 0 }).1 })

/-- The model's own (log 14): an operation issued and pending is the next step, exactly as exec runs it. -/
def Obligations.StepRunsIssuedOperation : Prop :=
  ∀ (s : State) (i : Instr) (rest : List Instr), configOk s.cfg = true → s.ended = false → s.calls = i :: rest →
    step s = exec i { s with calls := rest }

/-- R248, R281, U10, U11: a step stops only for a configuration outside R7, after the end of the run, or for a pending load that stops under
its own name; every other step has a next state. The model's own: the stops of step itself (log 9, 17), and with U6 and the spec's decision
D30 the refusal of a load past 0xFFFF (log 20); a pending SCHED_RUN is one turn of its loop (log 18). -/
def Obligations.StepStopsOnlyForNamedReasons : Prop :=
  ∀ s : State, (configOk s.cfg = false → step s = .refused .configOutside)
    ∧ (configOk s.cfg = true → s.ended = true → step s = .fault .runEnded)
    ∧ (Running s → ∃ t, step s = .next t)
    ∧ ∀ i rest, configOk s.cfg = true → s.ended = false → s.calls = i :: rest → (∃ t, step s = .next t)
        ∨ isLoad i = true ∧ (step s = .fault .loadError ∨ step s = .refused .loadPastEnd)

/-- R93, R108: a pin word placed for the fetch is the one the next step runs, whatever it is. The model's own (log 4, 14). -/
def Obligations.PlacedWordRunsNext : Prop :=
  ∀ (s : State) (w : Nat), configOk s.cfg = true → w < 2 ^ 64 → ∃ a,
    exec (decodePin (BitVec.ofNat 64 w)) { s with core := { s.core with held := [], script := some [] }, calls := [], ended := false } = .next a
      ∧ step (s.withFetchWord 64 w) = .next (finishTState a) ∧ decodeTableWord 64 w = some (decodePin (BitVec.ofNat 64 w))

/-! Encoding. -/

/-- A few words written out from R93 and the vectors V1, V4 decode to the operations they stand for. The pin layout and the priority are
the spec's own decisions D1, D2. -/
def Obligations.SampleWordsDecode : Prop :=
  decodePin 0x000000000A001234 = .memRead 0x0A 0 0x1234
    ∧ decodePin 0x0000000012AB8000 = .memWrite 0x12 0xAB 0x8000
    ∧ decodePin 0x0000000005000000 = .intAck 0x05 0 0
    ∧ decodePin 0x000000000C0000FE = .ioRead 0x0C 0 0x00FE
    ∧ decodePin 0x00000000140500FE = .ioWrite 0x14 5 0x00FE
    ∧ decodePin 0x0000000402000001 = .busIdle 0x402 0 0x0001

/-- Every well-formed operation that has an encoding decodes from it, with every operand. The size of a port write is the model's (log
23). -/
def Obligations.DecodeOfEncode : Prop :=
  ∀ (i : Instr) (bs : List Byte), i.wf = true → encode i = some bs → decode bs = .ok i

/-- R93, R105, R106: every pin word decodes to exactly one transaction, well-formed, whose encoding is the word. The priority is the
spec's own decision D2. -/
def Obligations.EncodeOfDecode : Prop :=
  ∀ p : PinWord, decode (pinBytes p) = .ok (decodePin p) ∧ (decodePin p).wf = true ∧ encode (decodePin p) = some (pinBytes p)

/-! The whole machine. -/

/-- R311, R20, R44: the values the spec gives for reset, at any launch parameters (the core's and Memory's contents are parameters,
R47), and that reset is the launch at the defaults. The zeros are the spec's own decisions D23, D24, D25 (log 31). -/
def Obligations.ResetValues : Prop :=
  (∀ (cfg : Config) (mem : Memory) (core : CoreState), let s := State.launch cfg mem core
    s.pins = 0 ∧ s.intLatch = false ∧ s.mem = mem ∧ s.ioreg = [(cfg.ulaMask, .ula)] ∧ s.core = core ∧ s.line = 0 ∧ s.lcyc = 0
      ∧ s.border = 0 ∧ s.flashCtr = 16 ∧ (∀ y x, fbGet s.fb y x = 0) ∧ s.field = false ∧ s.flashInv = false ∧ s.tstates = 0
      ∧ s.nextFrame = 69888 ∧ s.present = [])
    ∧ State.reset = State.launch standardConfig [] CoreState.reset

/-- R42 at reset: the invariants hold of the machine just constructed, and its next step is a T-state of the run loop. The zeros of
reset are the spec's own decisions D23 to D25 (log 31). -/
def Obligations.ResetMeetsInvariants : Prop :=
  Inv State.reset ∧ Phase State.reset ∧ LatchWindow State.reset ∧ Cadence State.reset ∧ RunCadence State.reset ∧ Running State.reset

/-- R42, R217: every step, a T-state or an operation issued, keeps the ranges, the canonical form of Memory, and every cell of FB inside
it. R42 and R217 are the spec's own derivations; the canonical forms are the model's (log 10, 11, 22). -/
def Obligations.StepKeepsInvariant : Prop :=
  ∀ s t : State, Inv s → step s = .next t → Inv t

/-- R196, R193: in the run loop raster, field and flash stay those of the T-state count. The spec's own derivations. -/
def Obligations.StepKeepsPhase : Prop :=
  ∀ s t : State, Running s → Phase s → step s = .next t → Phase t ∧ t.tstates = s.tstates + 1

/-- R193, R196: n fields on, the raster is where it was, the flags are those of the field count; 16 fields flip FLASH_INV. The spec's
own derivations. -/
def Obligations.FieldsAdvanceFlash : Prop :=
  ∀ (s : State) (n : Nat), Phase s → ∃ t, exec (.fieldsN n) s = .next t ∧ Phase t ∧ t.tstates = s.tstates + n * 69888
    ∧ t.line = s.line ∧ t.lcyc = s.lcyc
    ∧ (n = 16 → t.flashInv = !s.flashInv ∧ t.flashCtr = s.flashCtr ∧ t.field = s.field)
    ∧ (s.tstates % 1118208 < 69888 → n < 16 → t.flashInv = s.flashInv)

/-- R192, R284: the interrupt window: in the run loop the latch stays set exactly for the 32 ticks from INT_START of line 0, and the
word the core receives carries INT exactly in the ticks INT_START + 1 to INT_START + 32. The spec's own derivations. -/
def Obligations.StepKeepsLatchWindow : Prop :=
  ∀ s t : State, Running s → Inv s → LatchWindow s → step s = .next t →
    LatchWindow t ∧ ((mergeInt s.pins s.intLatch).getLsbD 30 = true ↔
      s.line = 0 ∧ s.cfg.intStart + 1 ≤ s.lcyc.toNat ∧ s.lcyc.toNat ≤ s.cfg.intStart + 32)

/-- R244: in the run loop the refresh cadence holds of the T-state count at which the batch in progress began. The model's cut of the
batch (log 15). -/
def Obligations.StepKeepsRunCadence : Prop :=
  ∀ s t : State, Running s → RunCadence s → step s = .next t → RunCadence t

/-- R68, R69: only the host's loads change a byte below 0x4000. The loads' exemption is the spec's own derivation. -/
def Obligations.OnlyLoadsWriteRom : Prop :=
  ∀ (i : Instr) (s t : State), isLoad i = false → exec i s = .next t →
    ∀ a : Addr, a.toNat < 0x4000 → memGet t.mem a = memGet s.mem a

/-- R71, R67: a T-state changes no byte of Memory but the one its own MEM_WRITE stores. The step of one T-state is the model's (log 14). -/
def Obligations.StepStoresOnlyFetchedWrite : Prop :=
  ∀ s t : State, Running s → step s = .next t → ∀ b : Addr,
    memGet t.mem b = match decodePin (fetchWord s).1 with
      | .memWrite _ data addr => if b = addr ∧ 0x4000 ≤ addr.toNat then data else memGet s.mem b
      | _ => memGet s.mem b

/-- R266, R29: in the run loop BORDER changes only by an IO_WRITE that a covering controller takes, to the low three bits. The step of
one T-state is the model's (log 14). -/
def Obligations.BorderChangesOnlyByPortWrite : Prop :=
  ∀ s t : State, Running s → step s = .next t → t.border = s.border
    ∨ ∃ ctl data addr, decodePin (fetchWord s).1 = .ioWrite ctl data addr
        ∧ (∃ e ∈ s.ioreg, covers e.1 addr = true ∧ e.2 = .ula) ∧ t.border = data.extractLsb' 0 3

/-- R47: no operation changes the configuration. -/
def Obligations.ConfigurationConstant : Prop :=
  ∀ (i : Instr) (s t : State), exec i s = .next t → t.cfg = s.cfg

/-- R280, R281, R326: every operation but the loads completes, from every state; a load completes or stops by its own name. The model's: that
SCHED_RUN completes rests on its unrolling to one turn of the loop (log 18: the loop itself ends only if a quit sample is true, R326), the
refusal of a load past 0xFFFF on U6 and the spec's own decision D30 (log 20), and operations are refused for no moment (log 29). -/
def Obligations.OnlyLoadsStop : Prop :=
  ∀ (i : Instr) (s : State), (∃ t, exec i s = .next t)
    ∨ isLoad i = true ∧ (exec i s = .fault .loadError ∨ exec i s = .refused .loadPastEnd)
end

