-- ==== Sys2Proof/Laws/Cells.lean ====
section
/-! SUPPORT. The laws of the sparse lists behind Memory and the frame buffer: a read after a write, and that every operation keeps the
canonical form. The read laws hold of every list, canonical or not. -/
namespace Sys2Proof.Machine

variable {α : Type}

theorem cellGet_filter_ne (d : α) (m : List (Nat × α)) (a b : Nat) :
    cellGet d (m.filter (fun c => c.1 ≠ a)) b = if b = a then d else cellGet d m b := by
  induction m with
  | nil => simp [cellGet]
  | cons c m ih =>
    by_cases h : c.1 = a
    · rw [List.filter_cons_of_neg (by simp [h]), ih]
      by_cases hb : b = a
      · simp [hb]
      · have : c.1 ≠ b := fun e => hb (by rw [← e, h])
        simp [hb, cellGet, this]
    · rw [List.filter_cons_of_pos (by simp [h])]
      by_cases hc : c.1 = b
      · have hb : b ≠ a := fun e => h (by rw [hc, e])
        simp [cellGet, hc, hb]
      · simp only [cellGet, hc, if_false, ih]

theorem cellGet_insert_of_absent (d : α) (m : List (Nat × α)) (a b : Nat) (v : α) (habs : ∀ c ∈ m, c.1 ≠ a) :
    cellGet d (cellInsert a v m) b = if b = a then v else cellGet d m b := by
  induction m with
  | nil =>
    by_cases hb : b = a
    · simp [cellInsert, cellGet, hb]
    · simp [cellInsert, cellGet, hb, Ne.symm hb]
  | cons c m ih =>
    have hc : c.1 ≠ a := habs c (by simp)
    have ih := ih (fun x hx => habs x (by simp [hx]))
    by_cases hlt : a < c.1
    · simp only [cellInsert, hlt, if_true, cellGet]
      by_cases hb : b = a
      · simp [hb]
      · simp [hb, Ne.symm hb]
    · simp only [cellInsert, hlt, if_false, cellGet, ih]
      by_cases hb : c.1 = b
      · have : b ≠ a := fun e => hc (by rw [hb, e])
        simp [hb, this]
      · simp [hb]

/-- A read after a write: the written key holds the value, every other key is as before. -/
theorem cellGet_cellSet [DecidableEq α] (d : α) (m : List (Nat × α)) (a b : Nat) (v : α) :
    cellGet d (cellSet d m a v) b = if b = a then v else cellGet d m b := by
  unfold cellSet
  split
  · rename_i hv
    rw [cellGet_filter_ne, hv]
  · rw [cellGet_insert_of_absent]
    · rw [cellGet_filter_ne]
      split <;> rfl
    · intro c hc
      simpa using (List.mem_filter.1 hc).2

theorem mem_cellInsert (a : Nat) (v : α) (m : List (Nat × α)) (c : Nat × α) :
    c ∈ cellInsert a v m ↔ c = (a, v) ∨ c ∈ m := by
  induction m with
  | nil => simp [cellInsert]
  | cons x m ih =>
    unfold cellInsert
    split
    · simp
    · simp only [List.mem_cons, ih]
      tauto

theorem mem_cellSet [DecidableEq α] {d : α} {m : List (Nat × α)} {a : Nat} {v : α} {c : Nat × α}
    (h : c ∈ cellSet d m a v) : c = (a, v) ∧ v ≠ d ∨ c ∈ m := by
  unfold cellSet at h
  split at h
  · exact .inr (List.mem_filter.1 h).1
  · rcases (mem_cellInsert a v _ c).1 h with h | h
    · exact .inl ⟨h, ‹_›⟩
    · exact .inr (List.mem_filter.1 h).1

theorem pairwise_cellInsert (a : Nat) (v : α) (m : List (Nat × α)) (h : m.Pairwise (fun x y => x.1 < y.1))
    (habs : ∀ c ∈ m, c.1 ≠ a) : (cellInsert a v m).Pairwise (fun x y => x.1 < y.1) := by
  induction m with
  | nil => simp [cellInsert]
  | cons c m ih =>
    obtain ⟨hc, hm⟩ := List.pairwise_cons.1 h
    have hne : c.1 ≠ a := habs c (by simp)
    unfold cellInsert
    split
    · rename_i hlt
      refine List.pairwise_cons.2 ⟨fun x hx => ?_, h⟩
      rcases List.mem_cons.1 hx with rfl | hx
      · exact hlt
      · exact Nat.lt_trans hlt (hc x hx)
    · rename_i hlt
      refine List.pairwise_cons.2 ⟨fun x hx => ?_, ih hm (fun x hx => habs x (by simp [hx]))⟩
      rcases (mem_cellInsert a v m x).1 hx with rfl | hx
      · exact Nat.lt_of_le_of_ne (Nat.not_lt.1 hlt) hne
      · exact hc x hx

/-- Writing keeps the canonical form. -/
theorem canonical_cellSet [DecidableEq α] {d : α} {hi : Nat} {m : List (Nat × α)} (h : Canonical d hi m) {a : Nat} (ha : a < hi)
    (v : α) : Canonical d hi (cellSet d m a v) := by
  refine ⟨?_, fun c hc => ?_⟩
  · have hf := h.1.filter (fun c => c.1 ≠ a)
    unfold cellSet
    split
    · exact hf
    · exact pairwise_cellInsert a v _ hf (fun c hc => by simpa using (List.mem_filter.1 hc).2)
  · rcases mem_cellSet hc with ⟨rfl, hv⟩ | hc
    · exact ⟨ha, hv⟩
    · exact h.2 c hc

/-- R140: a device's own state after a change, and every other device's. -/
theorem devGet_devSet (devs : List (Nat × Nat)) (id other v : Nat) :
    devGet (devSet devs id v) other = if other = id then v else devGet devs other :=
  cellGet_cellSet 0 devs id other v

/-- A change of a device's own state keeps the canonical form. -/
theorem devSet_wf {devs : List (Nat × Nat)} (h : devsWf devs) (id v : Nat) : devsWf (devSet devs id v) := by
  obtain ⟨hi, hp, hb⟩ := h
  have hc : Canonical 0 (max hi (id + 1)) devs := ⟨hp, fun c hc => ⟨by have := (hb c hc).1; omega, (hb c hc).2⟩⟩
  exact ⟨_, canonical_cellSet hc (by omega) v⟩

theorem cellGet_eq_default (d : α) (m : List (Nat × α)) (a : Nat) (h : ∀ c ∈ m, c.1 ≠ a) : cellGet d m a = d := by
  induction m with
  | nil => rfl
  | cons c m ih =>
    have hc : c.1 ≠ a := h c (by simp)
    simp only [cellGet, hc, if_false]
    exact ih (fun x hx => h x (by simp [hx]))

theorem cellGet_append (d : α) (m n : List (Nat × α)) (a : Nat) :
    cellGet d (m ++ n) a = if (∃ c ∈ m, c.1 = a) then cellGet d m a else cellGet d n a := by
  induction m with
  | nil => simp
  | cons c m ih =>
    by_cases hc : c.1 = a
    · simp [cellGet, hc]
    · simp only [List.cons_append, cellGet, hc, if_false, ih, List.mem_cons, exists_eq_or_imp, false_or]

theorem cellGet_filter (d : α) (m : List (Nat × α)) (p : Nat → Bool) (a : Nat) :
    cellGet d (m.filter (fun c => p c.1)) a = if p a then cellGet d m a else d := by
  induction m with
  | nil => simp [cellGet]
  | cons c m ih =>
    by_cases hp : p c.1
    · rw [List.filter_cons_of_pos (p := fun c : Nat × α => p c.1) hp]
      by_cases hc : c.1 = a
      · subst hc
        simp [cellGet, hp]
      · simp only [cellGet, hc, if_false, ih]
    · rw [List.filter_cons_of_neg (p := fun c : Nat × α => p c.1) (by simpa using hp), ih]
      by_cases hc : c.1 = a
      · subst hc
        simp [hp]
      · simp [cellGet, hc]

/-- A canonical list gives the key of a cell that cellGet finds. -/
theorem exists_of_cellGet_ne (d : α) (m : List (Nat × α)) (a : Nat) (h : cellGet d m a ≠ d) : (a, cellGet d m a) ∈ m := by
  induction m with
  | nil => exact absurd rfl h
  | cons c m ih =>
    by_cases hc : c.1 = a
    · subst hc
      simp [cellGet]
    · have e : cellGet d (c :: m) a = cellGet d m a := by simp [cellGet, hc]
      rw [e] at h ⊢
      exact List.mem_cons_of_mem _ (ih h)

/-! Memory. -/

/-- R131: what Memory holds after a bus write. -/
theorem memGet_memPut (m : Memory) (a b : Addr) (v : Byte) :
    memGet (memPut m a v) b = if b = a ∧ romEnd ≤ a.toNat then v else memGet m b := by
  unfold memPut memGet
  split
  · rename_i h
    have : ¬ romEnd ≤ a.toNat := by omega
    simp [this]
  · rename_i h
    have h' : romEnd ≤ a.toNat := by omega
    rw [cellGet_cellSet]
    by_cases e : b = a
    · simp [e, h']
    · have : b.toNat ≠ a.toNat := fun e' => e (BitVec.eq_of_toNat_eq e')
      simp [e, this]

theorem memPut_wf {m : Memory} (h : Memory.wf m) (a : Addr) (v : Byte) : Memory.wf (memPut m a v) := by
  unfold memPut
  split
  · exact h
  · exact canonical_cellSet h a.isLt v

theorem bytesAt_key {a : Nat} {bs : List Byte} {c : Host.Cell} (h : c ∈ bytesAt a bs) :
    a ≤ c.1 ∧ c.1 < a + bs.length ∧ c.2 ≠ unwrittenByte := by
  induction bs generalizing a with
  | nil => simp [bytesAt] at h
  | cons b bs ih =>
    unfold bytesAt at h
    split at h
    · obtain ⟨h1, h2, h3⟩ := ih h
      refine ⟨by omega, by simp only [List.length_cons]; omega, h3⟩
    · rcases List.mem_cons.1 h with rfl | h
      · exact ⟨Nat.le_refl _, by simp only [List.length_cons]; omega, ‹_›⟩
      · obtain ⟨h1, h2, h3⟩ := ih h
        refine ⟨by omega, by simp only [List.length_cons]; omega, h3⟩

theorem cellGet_bytesAt (a b : Nat) (bs : List Byte) :
    cellGet unwrittenByte (bytesAt a bs) b = if a ≤ b then bs.getD (b - a) unwrittenByte else unwrittenByte := by
  induction bs generalizing a with
  | nil => simp [bytesAt, cellGet]
  | cons x bs ih =>
    unfold bytesAt
    rcases Nat.lt_trichotomy b a with h | h | h
    · have h1 : ¬ a ≤ b := by omega
      have h2 : ¬ a + 1 ≤ b := by omega
      have h3 : a ≠ b := by omega
      split <;> simp [cellGet, ih, h2, h3]
    · subst h
      have h2 : ¬ b + 1 ≤ b := by omega
      split
      · rename_i hx
        simp [ih, hx]
      · simp [cellGet]
    · have h1 : a ≤ b := by omega
      have h2 : a + 1 ≤ b := by omega
      have h3 : a ≠ b := by omega
      have h4 : b - a = (b - (a + 1)) + 1 := by omega
      split <;> simp [cellGet, ih, h2, h3, h4]

/-- R132: what Memory holds after a load. -/
theorem memGet_memSplice (m : Memory) (dest : Nat) (bs : List Byte) (b : Addr) :
    memGet (memSplice m dest bs) b =
      if dest ≤ b.toNat ∧ b.toNat < dest + bs.length then bs.getD (b.toNat - dest) unwrittenByte else memGet m b := by
  unfold memGet memSplice
  rw [cellGet_append, cellGet_append, cellGet_filter _ _ (fun k => decide (k < dest)),
    cellGet_filter _ _ (fun k => decide (dest + bs.length ≤ k)), cellGet_bytesAt]
  by_cases h1 : b.toNat < dest
  · have n1 : ¬ dest ≤ b.toNat := by omega
    have n2 : ¬ dest + bs.length ≤ b.toNat := by omega
    simp only [h1, n1, n2, false_and, decide_true, decide_false, if_true, if_false]
    by_cases hm : ∃ c ∈ m, c.1 = b.toNat
    · have : ∃ c ∈ m.filter (fun c => decide (c.1 < dest)) ++ bytesAt dest bs, c.1 = b.toNat := by
        obtain ⟨c, hc, e⟩ := hm
        exact ⟨c, List.mem_append_left _ (List.mem_filter.2 ⟨hc, by simpa [e] using h1⟩), e⟩
      have t : ∃ c ∈ m.filter (fun c => decide (c.1 < dest)), c.1 = b.toNat := by
        obtain ⟨c, hc, e⟩ := hm
        exact ⟨c, List.mem_filter.2 ⟨hc, by simpa [e] using h1⟩, e⟩
      rw [if_pos this, if_pos t]
    · have e : cellGet unwrittenByte m b.toNat = unwrittenByte :=
        cellGet_eq_default _ _ _ (fun c hc e => hm ⟨c, hc, e⟩)
      rw [e]
      simp
  · have n1 : dest ≤ b.toNat := by omega
    have t : ¬ ∃ c ∈ m.filter (fun c => decide (c.1 < dest)), c.1 = b.toNat := by
      rintro ⟨c, hc, e⟩
      have := (List.mem_filter.1 hc).2
      simp only [decide_eq_true_eq] at this
      omega
    by_cases h2 : b.toNat < dest + bs.length
    · have n2 : ¬ dest + bs.length ≤ b.toNat := by omega
      simp only [n1, h1, n2, h2, true_and, if_true, decide_false, if_neg t]
      split
      · rfl
      · rename_i hno
        have e := cellGet_eq_default unwrittenByte (bytesAt dest bs) b.toNat
          (fun c hc e => hno ⟨c, List.mem_append_right _ hc, e⟩)
        rw [cellGet_bytesAt, if_pos n1] at e
        rw [e]
        simp
    · have n2 : dest + bs.length ≤ b.toNat := by omega
      have t2 : ¬ ∃ c ∈ m.filter (fun c => decide (c.1 < dest)) ++ bytesAt dest bs, c.1 = b.toNat := by
        rintro ⟨c, hc, e⟩
        rcases List.mem_append.1 hc with hc | hc
        · exact t ⟨c, hc, e⟩
        · have := (bytesAt_key hc).2.1
          omega
      rw [if_neg t2]
      simp [n2, h2]

theorem pairwise_bytesAt (a : Nat) (bs : List Byte) : (bytesAt a bs).Pairwise (fun x y => x.1 < y.1) := by
  induction bs generalizing a with
  | nil => simp [bytesAt]
  | cons b bs ih =>
    unfold bytesAt
    split
    · exact ih _
    · exact List.pairwise_cons.2 ⟨fun c hc => (bytesAt_key hc).1, ih _⟩

/-- A load that stays in Memory keeps the canonical form. -/
theorem memSplice_wf {m : Memory} (h : Memory.wf m) (dest : Nat) (bs : List Byte) (hb : dest + bs.length ≤ memSize) :
    Memory.wf (memSplice m dest bs) := by
  refine ⟨?_, fun c hc => ?_⟩
  · refine List.pairwise_append.2 ⟨List.pairwise_append.2 ⟨h.1.filter _, pairwise_bytesAt _ _, ?_⟩, h.1.filter _, ?_⟩
    · intro x hx y hy
      have hx := (List.mem_filter.1 hx).2
      simp only [decide_eq_true_eq] at hx
      have := (bytesAt_key hy).1
      omega
    · intro x hx y hy
      have hy := (List.mem_filter.1 hy).2
      simp only [decide_eq_true_eq] at hy
      rcases List.mem_append.1 hx with hx | hx
      · have hx := (List.mem_filter.1 hx).2
        simp only [decide_eq_true_eq] at hx
        omega
      · have := (bytesAt_key hx).2.1
        omega
  · rcases List.mem_append.1 hc with hc | hc
    · rcases List.mem_append.1 hc with hc | hc
      · exact h.2 c (List.mem_filter.1 hc).1
      · have := bytesAt_key hc
        exact ⟨by omega, this.2.2⟩
    · exact h.2 c (List.mem_filter.1 hc).1

/-! Frame buffer. -/

/-- What FB holds after one cell is written. -/
theorem fbGet_fbPut (fb : FrameBuffer) (y x y' x' : Nat) (v : Sample) :
    fbGet (fbPut fb y x v) y' x' = if y' = y ∧ x' = x then v else fbGet fb y' x' := by
  unfold fbGet fbPut
  rw [cellGet_cellSet]
  by_cases hy : y' = y
  · subst hy
    rw [if_pos rfl, cellGet_cellSet]
    simp
  · simp [hy]

theorem canonical_row {c : Config} {fb : FrameBuffer} (h : FrameBuffer.wf c fb) (y : Nat) :
    Canonical 0 (fbW c) (cellGet [] fb y) := by
  by_cases e : cellGet [] fb y = []
  · rw [e]
    exact ⟨List.Pairwise.nil, by simp⟩
  · exact h.2 _ (exists_of_cellGet_ne _ _ _ e)

theorem fbPut_wf {c : Config} {fb : FrameBuffer} (h : FrameBuffer.wf c fb) {y x : Nat} (hy : y < fbH c) (hx : x < fbW c)
    (v : Sample) : FrameBuffer.wf c (fbPut fb y x v) := by
  refine ⟨canonical_cellSet h.1 hy _, fun row hrow => ?_⟩
  rcases mem_cellSet hrow with ⟨rfl, _⟩ | hrow
  · exact canonical_cellSet (canonical_row h y) hx v
  · exact h.2 row hrow

end Sys2Proof.Machine
end

