-- ==== Sys2Proof/Laws/Pins.lean ====
section
/-! SUPPORT. The laws of the pin word's fields (40_pin_codec.md R125), bit by bit, and of the row match: a row of 30_encoding.md R93 looks only at
the control part, so a word and its parts decode alike. -/
namespace Sys2Proof.Machine

theorem addrMask_bit (i : Nat) : addrMask.getLsbD i = decide (i < 16) := by
  by_cases h : i < 64
  · exact (by decide : ∀ i : Fin 64, addrMask.getLsbD i = decide (i.val < 16)) ⟨i, h⟩
  · have : ¬ i < 16 := by omega
    rw [BitVec.getLsbD_of_ge _ _ (Nat.le_of_not_lt h)]
    simp [this]

theorem dataMask_bit (i : Nat) : dataMask.getLsbD i = decide (16 ≤ i ∧ i < 24) := by
  by_cases h : i < 64
  · exact (by decide : ∀ i : Fin 64, dataMask.getLsbD i = decide (16 ≤ i.val ∧ i.val < 24)) ⟨i, h⟩
  · have : ¬ (16 ≤ i ∧ i < 24) := by omega
    rw [BitVec.getLsbD_of_ge _ _ (Nat.le_of_not_lt h)]
    simp [this]

theorem ctrlMask_bit (i : Nat) : ctrlMask.getLsbD i = decide (24 ≤ i ∧ i < 35) := by
  by_cases h : i < 64
  · exact (by decide : ∀ i : Fin 64, ctrlMask.getLsbD i = decide (24 ≤ i.val ∧ i.val < 35)) ⟨i, h⟩
  · have : ¬ (24 ≤ i ∧ i < 35) := by omega
    rw [BitVec.getLsbD_of_ge _ _ (Nat.le_of_not_lt h)]
    simp [this]

theorem byteMask_bit (i : Nat) : (0xFF : PinWord).getLsbD i = decide (i < 8) := by
  by_cases h : i < 64
  · exact (by decide : ∀ i : Fin 64, (0xFF : PinWord).getLsbD i = decide (i.val < 8)) ⟨i, h⟩
  · have : ¬ i < 8 := by omega
    rw [BitVec.getLsbD_of_ge _ _ (Nat.le_of_not_lt h)]
    simp [this]

theorem pinJoin_bit (c : BitVec 40) (d : Byte) (a : Addr) (i : Nat) :
    (pinJoin c d a).getLsbD i = if i < 16 then a.getLsbD i else if i < 24 then d.getLsbD (i - 16) else c.getLsbD (i - 24) := by
  unfold pinJoin
  rw [BitVec.getLsbD_append]
  split
  · rfl
  · rw [BitVec.getLsbD_append]
    by_cases h : i < 24
    · have h' : i - 16 < 8 := by omega
      simp [h, h']
    · have h' : ¬ i - 16 < 8 := by omega
      have e : i - 16 - 8 = i - 24 := by omega
      simp [h, h', e]

theorem pinGetAddr_bit (p : PinWord) (i : Nat) : (pinGetAddr p).getLsbD i = (decide (i < 16) && p.getLsbD i) := by
  simp [pinGetAddr]

theorem pinGetData_bit (p : PinWord) (i : Nat) : (pinGetData p).getLsbD i = (decide (i < 8) && p.getLsbD (16 + i)) := by
  simp [pinGetData]

theorem pinCtl_bit (p : PinWord) (i : Nat) : (pinCtl p).getLsbD i = (decide (i < 40) && p.getLsbD (24 + i)) := by
  simp [pinCtl]

theorem pinSetData_bit (p d : BitVec 64) (i : Nat) :
    (pinSetData p d).getLsbD i = if 16 ≤ i ∧ i < 24 then d.getLsbD (i - 16) else p.getLsbD i := by
  by_cases hi : i < 64
  · simp only [pinSetData, BitVec.getLsbD_or, BitVec.getLsbD_and, BitVec.getLsbD_not, dataMask_bit, BitVec.getLsbD_shiftLeft,
      hi]
    rw [byteMask_bit]
    by_cases h : 16 ≤ i ∧ i < 24
    · have h1 : ¬ i < 16 := by omega
      have h2 : i - 16 < 8 := by omega
      simp [h, h1, h2]
    · by_cases h1 : i < 16
      · simp [h, h1]
      · have h2 : ¬ i - 16 < 8 := by omega
        simp [h, h1, h2]
  · have h : ¬ (16 ≤ i ∧ i < 24) := by omega
    rw [if_neg h, BitVec.getLsbD_of_ge _ i (by omega), BitVec.getLsbD_of_ge _ i (by omega)]

theorem pinSetAddr_bit (p a : BitVec 64) (i : Nat) :
    (pinSetAddr p a).getLsbD i = if i < 16 then a.getLsbD i else p.getLsbD i := by
  by_cases hi : i < 64
  · simp only [pinSetAddr, BitVec.getLsbD_or, BitVec.getLsbD_and, BitVec.getLsbD_not, addrMask_bit, hi]
    by_cases h : i < 16 <;> simp [h]
  · have h : ¬ i < 16 := by omega
    rw [if_neg h, BitVec.getLsbD_of_ge _ i (by omega), BitVec.getLsbD_of_ge _ i (by omega)]

theorem pinPack_bit (f a d : BitVec 64) (i : Nat) : (pinPack f a d).getLsbD i =
    if i < 16 then a.getLsbD i else if i < 24 then d.getLsbD (i - 16) else decide (i < 35) && f.getLsbD i := by
  by_cases hi : i < 64
  · simp only [pinPack, BitVec.getLsbD_or, BitVec.getLsbD_and, ctrlMask_bit, addrMask_bit, BitVec.getLsbD_shiftLeft, hi]
    rw [byteMask_bit]
    by_cases h1 : i < 16
    · have h2 : ¬ (24 ≤ i ∧ i < 35) := by omega
      simp [h1, h2]
    · by_cases h2 : i < 24
      · have h3 : ¬ (24 ≤ i ∧ i < 35) := by omega
        have h4 : i - 16 < 8 := by omega
        simp [h1, h2, h3, h4]
      · have h4 : ¬ i - 16 < 8 := by omega
        have h5 : 24 ≤ i := by omega
        simp [h1, h2, h4, h5, Bool.and_comm]
  · have h1 : ¬ i < 16 := by omega
    have h2 : ¬ i < 24 := by omega
    have h3 : ¬ i < 35 := by omega
    rw [if_neg h1, if_neg h2, BitVec.getLsbD_of_ge _ i (by omega)]
    simp [h3]

@[simp] theorem pinGetAddr_pinJoin (c : BitVec 40) (d : Byte) (a : Addr) : pinGetAddr (pinJoin c d a) = a := by
  apply BitVec.eq_of_getLsbD_eq
  intro i hi
  rw [pinGetAddr_bit, pinJoin_bit]
  simp [hi]

@[simp] theorem pinGetData_pinJoin (c : BitVec 40) (d : Byte) (a : Addr) : pinGetData (pinJoin c d a) = d := by
  apply BitVec.eq_of_getLsbD_eq
  intro i hi
  have h : 16 + i < 24 := by omega
  rw [pinGetData_bit, pinJoin_bit]
  simp [hi, h]

@[simp] theorem pinCtl_pinJoin (c : BitVec 40) (d : Byte) (a : Addr) : pinCtl (pinJoin c d a) = c := by
  apply BitVec.eq_of_getLsbD_eq
  intro i hi
  have h1 : ¬ 24 + i < 16 := by omega
  have h2 : ¬ 24 + i < 24 := by omega
  rw [pinCtl_bit, pinJoin_bit, if_neg h1, if_neg h2]
  simp [hi]

/-- The three parts of a word make it up. -/
@[simp] theorem pinJoin_parts (p : PinWord) : pinJoin (pinCtl p) (pinGetData p) (pinGetAddr p) = p := by
  apply BitVec.eq_of_getLsbD_eq
  intro i hi
  rw [pinJoin_bit, pinGetAddr_bit, pinGetData_bit, pinCtl_bit]
  by_cases h1 : i < 16
  · simp [h1]
  · by_cases h2 : i < 24
    · have h3 : i - 16 < 8 := by omega
      have h4 : 16 + (i - 16) = i := by omega
      simp [h1, h2, h3, h4]
    · have h3 : i - 24 < 40 := by omega
      have h4 : 24 + (i - 24) = i := by omega
      simp [h1, h2, h3, h4]

/-- Placing read data replaces the data part. -/
@[simp] theorem placeData_pinJoin (c : BitVec 40) (d v : Byte) (a : Addr) : placeData (pinJoin c d a) v = pinJoin c v a := by
  apply BitVec.eq_of_getLsbD_eq
  intro i hi
  simp only [placeData, pinSetData_bit, pinJoin_bit, BitVec.truncate_eq_setWidth, BitVec.getLsbD_setWidth]
  by_cases h : 16 ≤ i ∧ i < 24
  · have h1 : ¬ i < 16 := by omega
    have h2 : i - 16 < 64 := by omega
    simp [h, h1, h2]
  · by_cases h1 : i < 16
    · simp [h, h1]
    · have h2 : ¬ i < 24 := by omega
      simp [h1, h2]

/-- A row with no bit below 24 sees only the control part. -/
theorem rowMatches_ctl {row : PinWord} (h : ∀ i, i < 24 → row.getLsbD i = false) (c : BitVec 40) (d : Byte) (a : Addr) :
    rowMatches (pinJoin c d a) row = ctlMatches c row := by
  have e : pinJoin c d a &&& row = pinJoin c 0 0 &&& row := by
    apply BitVec.eq_of_getLsbD_eq
    intro i _
    simp only [BitVec.getLsbD_and, pinJoin_bit]
    by_cases hi : i < 24
    · simp [h i hi]
    · have h1 : ¬ i < 16 := by omega
      simp [hi, h1]
  unfold ctlMatches rowMatches
  rw [e]

@[simp] theorem rowMemRead_ctl (c : BitVec 40) (d : Byte) (a : Addr) :
    rowMatches (pinJoin c d a) rowMemRead = ctlMatches c rowMemRead :=
  rowMatches_ctl (fun i hi => (by decide : ∀ i : Fin 24, rowMemRead.getLsbD i = false) ⟨i, hi⟩) c d a

@[simp] theorem rowMemWrite_ctl (c : BitVec 40) (d : Byte) (a : Addr) :
    rowMatches (pinJoin c d a) rowMemWrite = ctlMatches c rowMemWrite :=
  rowMatches_ctl (fun i hi => (by decide : ∀ i : Fin 24, rowMemWrite.getLsbD i = false) ⟨i, hi⟩) c d a

@[simp] theorem rowIntAck_ctl (c : BitVec 40) (d : Byte) (a : Addr) :
    rowMatches (pinJoin c d a) rowIntAck = ctlMatches c rowIntAck :=
  rowMatches_ctl (fun i hi => (by decide : ∀ i : Fin 24, rowIntAck.getLsbD i = false) ⟨i, hi⟩) c d a

@[simp] theorem rowIoRead_ctl (c : BitVec 40) (d : Byte) (a : Addr) :
    rowMatches (pinJoin c d a) rowIoRead = ctlMatches c rowIoRead :=
  rowMatches_ctl (fun i hi => (by decide : ∀ i : Fin 24, rowIoRead.getLsbD i = false) ⟨i, hi⟩) c d a

@[simp] theorem rowIoWrite_ctl (c : BitVec 40) (d : Byte) (a : Addr) :
    rowMatches (pinJoin c d a) rowIoWrite = ctlMatches c rowIoWrite :=
  rowMatches_ctl (fun i hi => (by decide : ∀ i : Fin 24, rowIoWrite.getLsbD i = false) ⟨i, hi⟩) c d a

end Sys2Proof.Machine
end

