-- ==== Sys2Proof/Laws/State.lean ====
section
/-! SUPPORT. What the shared operations leave alone: for each operation and each field of State it does not write, the field is as before. -/
namespace Sys2Proof.Machine

/-! setInterrupt (R169) writes only: intLatch. -/

@[simp] theorem setInterrupt_cfg (b : Bool) (s : State) : (setInterrupt b s).cfg = s.cfg := rfl
@[simp] theorem setInterrupt_pins (b : Bool) (s : State) : (setInterrupt b s).pins = s.pins := rfl
@[simp] theorem setInterrupt_mem (b : Bool) (s : State) : (setInterrupt b s).mem = s.mem := rfl
@[simp] theorem setInterrupt_ioreg (b : Bool) (s : State) : (setInterrupt b s).ioreg = s.ioreg := rfl
@[simp] theorem setInterrupt_core (b : Bool) (s : State) : (setInterrupt b s).core = s.core := rfl
@[simp] theorem setInterrupt_line (b : Bool) (s : State) : (setInterrupt b s).line = s.line := rfl
@[simp] theorem setInterrupt_lcyc (b : Bool) (s : State) : (setInterrupt b s).lcyc = s.lcyc := rfl
@[simp] theorem setInterrupt_border (b : Bool) (s : State) : (setInterrupt b s).border = s.border := rfl
@[simp] theorem setInterrupt_flashCtr (b : Bool) (s : State) : (setInterrupt b s).flashCtr = s.flashCtr := rfl
@[simp] theorem setInterrupt_fb (b : Bool) (s : State) : (setInterrupt b s).fb = s.fb := rfl
@[simp] theorem setInterrupt_field (b : Bool) (s : State) : (setInterrupt b s).field = s.field := rfl
@[simp] theorem setInterrupt_flashInv (b : Bool) (s : State) : (setInterrupt b s).flashInv = s.flashInv := rfl
@[simp] theorem setInterrupt_tstates (b : Bool) (s : State) : (setInterrupt b s).tstates = s.tstates := rfl
@[simp] theorem setInterrupt_nextFrame (b : Bool) (s : State) : (setInterrupt b s).nextFrame = s.nextFrame := rfl
@[simp] theorem setInterrupt_present (b : Bool) (s : State) : (setInterrupt b s).present = s.present := rfl
@[simp] theorem setInterrupt_batchPos (b : Bool) (s : State) : (setInterrupt b s).batchPos = s.batchPos := rfl
@[simp] theorem setInterrupt_ended (b : Bool) (s : State) : (setInterrupt b s).ended = s.ended := rfl
@[simp] theorem setInterrupt_quits (b : Bool) (s : State) : (setInterrupt b s).quits = s.quits := rfl
@[simp] theorem setInterrupt_free (b : Bool) (s : State) : (setInterrupt b s).free = s.free := rfl
@[simp] theorem setInterrupt_calls (b : Bool) (s : State) : (setInterrupt b s).calls = s.calls := rfl
@[simp] theorem setInterrupt_result (b : Bool) (s : State) : (setInterrupt b s).result = s.result := rfl
@[simp] theorem setInterrupt_devs (b : Bool) (s : State) : (setInterrupt b s).devs = s.devs := rfl

/-! borderWrite (R190) writes only: border. -/

@[simp] theorem borderWrite_cfg (v : Byte) (s : State) : (borderWrite v s).cfg = s.cfg := rfl
@[simp] theorem borderWrite_pins (v : Byte) (s : State) : (borderWrite v s).pins = s.pins := rfl
@[simp] theorem borderWrite_intLatch (v : Byte) (s : State) : (borderWrite v s).intLatch = s.intLatch := rfl
@[simp] theorem borderWrite_mem (v : Byte) (s : State) : (borderWrite v s).mem = s.mem := rfl
@[simp] theorem borderWrite_ioreg (v : Byte) (s : State) : (borderWrite v s).ioreg = s.ioreg := rfl
@[simp] theorem borderWrite_core (v : Byte) (s : State) : (borderWrite v s).core = s.core := rfl
@[simp] theorem borderWrite_line (v : Byte) (s : State) : (borderWrite v s).line = s.line := rfl
@[simp] theorem borderWrite_lcyc (v : Byte) (s : State) : (borderWrite v s).lcyc = s.lcyc := rfl
@[simp] theorem borderWrite_flashCtr (v : Byte) (s : State) : (borderWrite v s).flashCtr = s.flashCtr := rfl
@[simp] theorem borderWrite_fb (v : Byte) (s : State) : (borderWrite v s).fb = s.fb := rfl
@[simp] theorem borderWrite_field (v : Byte) (s : State) : (borderWrite v s).field = s.field := rfl
@[simp] theorem borderWrite_flashInv (v : Byte) (s : State) : (borderWrite v s).flashInv = s.flashInv := rfl
@[simp] theorem borderWrite_tstates (v : Byte) (s : State) : (borderWrite v s).tstates = s.tstates := rfl
@[simp] theorem borderWrite_nextFrame (v : Byte) (s : State) : (borderWrite v s).nextFrame = s.nextFrame := rfl
@[simp] theorem borderWrite_present (v : Byte) (s : State) : (borderWrite v s).present = s.present := rfl
@[simp] theorem borderWrite_batchPos (v : Byte) (s : State) : (borderWrite v s).batchPos = s.batchPos := rfl
@[simp] theorem borderWrite_ended (v : Byte) (s : State) : (borderWrite v s).ended = s.ended := rfl
@[simp] theorem borderWrite_quits (v : Byte) (s : State) : (borderWrite v s).quits = s.quits := rfl
@[simp] theorem borderWrite_free (v : Byte) (s : State) : (borderWrite v s).free = s.free := rfl
@[simp] theorem borderWrite_calls (v : Byte) (s : State) : (borderWrite v s).calls = s.calls := rfl
@[simp] theorem borderWrite_result (v : Byte) (s : State) : (borderWrite v s).result = s.result := rfl
@[simp] theorem borderWrite_devs (v : Byte) (s : State) : (borderWrite v s).devs = s.devs := rfl

/-! deviceWrite (R140) writes only: border, devs. -/

@[simp] theorem deviceWrite_cfg (d : Device) (a : Addr) (v : Byte) (s : State) : (deviceWrite d a v s).cfg = s.cfg := by cases d <;> rfl
@[simp] theorem deviceWrite_pins (d : Device) (a : Addr) (v : Byte) (s : State) : (deviceWrite d a v s).pins = s.pins := by cases d <;> rfl
@[simp] theorem deviceWrite_intLatch (d : Device) (a : Addr) (v : Byte) (s : State) : (deviceWrite d a v s).intLatch = s.intLatch := by cases d <;> rfl
@[simp] theorem deviceWrite_mem (d : Device) (a : Addr) (v : Byte) (s : State) : (deviceWrite d a v s).mem = s.mem := by cases d <;> rfl
@[simp] theorem deviceWrite_ioreg (d : Device) (a : Addr) (v : Byte) (s : State) : (deviceWrite d a v s).ioreg = s.ioreg := by cases d <;> rfl
@[simp] theorem deviceWrite_core (d : Device) (a : Addr) (v : Byte) (s : State) : (deviceWrite d a v s).core = s.core := by cases d <;> rfl
@[simp] theorem deviceWrite_line (d : Device) (a : Addr) (v : Byte) (s : State) : (deviceWrite d a v s).line = s.line := by cases d <;> rfl
@[simp] theorem deviceWrite_lcyc (d : Device) (a : Addr) (v : Byte) (s : State) : (deviceWrite d a v s).lcyc = s.lcyc := by cases d <;> rfl
@[simp] theorem deviceWrite_flashCtr (d : Device) (a : Addr) (v : Byte) (s : State) : (deviceWrite d a v s).flashCtr = s.flashCtr := by cases d <;> rfl
@[simp] theorem deviceWrite_fb (d : Device) (a : Addr) (v : Byte) (s : State) : (deviceWrite d a v s).fb = s.fb := by cases d <;> rfl
@[simp] theorem deviceWrite_field (d : Device) (a : Addr) (v : Byte) (s : State) : (deviceWrite d a v s).field = s.field := by cases d <;> rfl
@[simp] theorem deviceWrite_flashInv (d : Device) (a : Addr) (v : Byte) (s : State) : (deviceWrite d a v s).flashInv = s.flashInv := by cases d <;> rfl
@[simp] theorem deviceWrite_tstates (d : Device) (a : Addr) (v : Byte) (s : State) : (deviceWrite d a v s).tstates = s.tstates := by cases d <;> rfl
@[simp] theorem deviceWrite_nextFrame (d : Device) (a : Addr) (v : Byte) (s : State) : (deviceWrite d a v s).nextFrame = s.nextFrame := by cases d <;> rfl
@[simp] theorem deviceWrite_present (d : Device) (a : Addr) (v : Byte) (s : State) : (deviceWrite d a v s).present = s.present := by cases d <;> rfl
@[simp] theorem deviceWrite_batchPos (d : Device) (a : Addr) (v : Byte) (s : State) : (deviceWrite d a v s).batchPos = s.batchPos := by cases d <;> rfl
@[simp] theorem deviceWrite_ended (d : Device) (a : Addr) (v : Byte) (s : State) : (deviceWrite d a v s).ended = s.ended := by cases d <;> rfl
@[simp] theorem deviceWrite_quits (d : Device) (a : Addr) (v : Byte) (s : State) : (deviceWrite d a v s).quits = s.quits := by cases d <;> rfl
@[simp] theorem deviceWrite_free (d : Device) (a : Addr) (v : Byte) (s : State) : (deviceWrite d a v s).free = s.free := by cases d <;> rfl
@[simp] theorem deviceWrite_calls (d : Device) (a : Addr) (v : Byte) (s : State) : (deviceWrite d a v s).calls = s.calls := by cases d <;> rfl
@[simp] theorem deviceWrite_result (d : Device) (a : Addr) (v : Byte) (s : State) : (deviceWrite d a v s).result = s.result := by cases d <;> rfl

/-! deviceRead (R140) writes only: free, devs. -/

@[simp] theorem deviceRead_cfg (d : Device) (a : Addr) (s : State) : ((deviceRead d a s).2).cfg = s.cfg := by cases d <;> rfl
@[simp] theorem deviceRead_pins (d : Device) (a : Addr) (s : State) : ((deviceRead d a s).2).pins = s.pins := by cases d <;> rfl
@[simp] theorem deviceRead_intLatch (d : Device) (a : Addr) (s : State) : ((deviceRead d a s).2).intLatch = s.intLatch := by cases d <;> rfl
@[simp] theorem deviceRead_mem (d : Device) (a : Addr) (s : State) : ((deviceRead d a s).2).mem = s.mem := by cases d <;> rfl
@[simp] theorem deviceRead_ioreg (d : Device) (a : Addr) (s : State) : ((deviceRead d a s).2).ioreg = s.ioreg := by cases d <;> rfl
@[simp] theorem deviceRead_core (d : Device) (a : Addr) (s : State) : ((deviceRead d a s).2).core = s.core := by cases d <;> rfl
@[simp] theorem deviceRead_line (d : Device) (a : Addr) (s : State) : ((deviceRead d a s).2).line = s.line := by cases d <;> rfl
@[simp] theorem deviceRead_lcyc (d : Device) (a : Addr) (s : State) : ((deviceRead d a s).2).lcyc = s.lcyc := by cases d <;> rfl
@[simp] theorem deviceRead_border (d : Device) (a : Addr) (s : State) : ((deviceRead d a s).2).border = s.border := by cases d <;> rfl
@[simp] theorem deviceRead_flashCtr (d : Device) (a : Addr) (s : State) : ((deviceRead d a s).2).flashCtr = s.flashCtr := by cases d <;> rfl
@[simp] theorem deviceRead_fb (d : Device) (a : Addr) (s : State) : ((deviceRead d a s).2).fb = s.fb := by cases d <;> rfl
@[simp] theorem deviceRead_field (d : Device) (a : Addr) (s : State) : ((deviceRead d a s).2).field = s.field := by cases d <;> rfl
@[simp] theorem deviceRead_flashInv (d : Device) (a : Addr) (s : State) : ((deviceRead d a s).2).flashInv = s.flashInv := by cases d <;> rfl
@[simp] theorem deviceRead_tstates (d : Device) (a : Addr) (s : State) : ((deviceRead d a s).2).tstates = s.tstates := by cases d <;> rfl
@[simp] theorem deviceRead_nextFrame (d : Device) (a : Addr) (s : State) : ((deviceRead d a s).2).nextFrame = s.nextFrame := by cases d <;> rfl
@[simp] theorem deviceRead_present (d : Device) (a : Addr) (s : State) : ((deviceRead d a s).2).present = s.present := by cases d <;> rfl
@[simp] theorem deviceRead_batchPos (d : Device) (a : Addr) (s : State) : ((deviceRead d a s).2).batchPos = s.batchPos := by cases d <;> rfl
@[simp] theorem deviceRead_ended (d : Device) (a : Addr) (s : State) : ((deviceRead d a s).2).ended = s.ended := by cases d <;> rfl
@[simp] theorem deviceRead_quits (d : Device) (a : Addr) (s : State) : ((deviceRead d a s).2).quits = s.quits := by cases d <;> rfl
@[simp] theorem deviceRead_calls (d : Device) (a : Addr) (s : State) : ((deviceRead d a s).2).calls = s.calls := by cases d <;> rfl
@[simp] theorem deviceRead_result (d : Device) (a : Addr) (s : State) : ((deviceRead d a s).2).result = s.result := by cases d <;> rfl

/-! selectDevice (R142) writes only: free. -/

@[simp] theorem selectDevice_cfg (a : Addr) (s : State) : ((selectDevice a s).2).cfg = s.cfg := rfl
@[simp] theorem selectDevice_pins (a : Addr) (s : State) : ((selectDevice a s).2).pins = s.pins := rfl
@[simp] theorem selectDevice_intLatch (a : Addr) (s : State) : ((selectDevice a s).2).intLatch = s.intLatch := rfl
@[simp] theorem selectDevice_mem (a : Addr) (s : State) : ((selectDevice a s).2).mem = s.mem := rfl
@[simp] theorem selectDevice_ioreg (a : Addr) (s : State) : ((selectDevice a s).2).ioreg = s.ioreg := rfl
@[simp] theorem selectDevice_core (a : Addr) (s : State) : ((selectDevice a s).2).core = s.core := rfl
@[simp] theorem selectDevice_line (a : Addr) (s : State) : ((selectDevice a s).2).line = s.line := rfl
@[simp] theorem selectDevice_lcyc (a : Addr) (s : State) : ((selectDevice a s).2).lcyc = s.lcyc := rfl
@[simp] theorem selectDevice_border (a : Addr) (s : State) : ((selectDevice a s).2).border = s.border := rfl
@[simp] theorem selectDevice_flashCtr (a : Addr) (s : State) : ((selectDevice a s).2).flashCtr = s.flashCtr := rfl
@[simp] theorem selectDevice_fb (a : Addr) (s : State) : ((selectDevice a s).2).fb = s.fb := rfl
@[simp] theorem selectDevice_field (a : Addr) (s : State) : ((selectDevice a s).2).field = s.field := rfl
@[simp] theorem selectDevice_flashInv (a : Addr) (s : State) : ((selectDevice a s).2).flashInv = s.flashInv := rfl
@[simp] theorem selectDevice_tstates (a : Addr) (s : State) : ((selectDevice a s).2).tstates = s.tstates := rfl
@[simp] theorem selectDevice_nextFrame (a : Addr) (s : State) : ((selectDevice a s).2).nextFrame = s.nextFrame := rfl
@[simp] theorem selectDevice_present (a : Addr) (s : State) : ((selectDevice a s).2).present = s.present := rfl
@[simp] theorem selectDevice_batchPos (a : Addr) (s : State) : ((selectDevice a s).2).batchPos = s.batchPos := rfl
@[simp] theorem selectDevice_ended (a : Addr) (s : State) : ((selectDevice a s).2).ended = s.ended := rfl
@[simp] theorem selectDevice_quits (a : Addr) (s : State) : ((selectDevice a s).2).quits = s.quits := rfl
@[simp] theorem selectDevice_calls (a : Addr) (s : State) : ((selectDevice a s).2).calls = s.calls := rfl
@[simp] theorem selectDevice_result (a : Addr) (s : State) : ((selectDevice a s).2).result = s.result := rfl
@[simp] theorem selectDevice_devs (a : Addr) (s : State) : ((selectDevice a s).2).devs = s.devs := rfl

/-! portRead (R142) writes only: free, devs. -/

@[simp] theorem portRead_cfg (a : Addr) (s : State) : ((portRead a s).2).cfg = s.cfg := by unfold portRead; split <;> simp
@[simp] theorem portRead_pins (a : Addr) (s : State) : ((portRead a s).2).pins = s.pins := by unfold portRead; split <;> simp
@[simp] theorem portRead_intLatch (a : Addr) (s : State) : ((portRead a s).2).intLatch = s.intLatch := by unfold portRead; split <;> simp
@[simp] theorem portRead_mem (a : Addr) (s : State) : ((portRead a s).2).mem = s.mem := by unfold portRead; split <;> simp
@[simp] theorem portRead_ioreg (a : Addr) (s : State) : ((portRead a s).2).ioreg = s.ioreg := by unfold portRead; split <;> simp
@[simp] theorem portRead_core (a : Addr) (s : State) : ((portRead a s).2).core = s.core := by unfold portRead; split <;> simp
@[simp] theorem portRead_line (a : Addr) (s : State) : ((portRead a s).2).line = s.line := by unfold portRead; split <;> simp
@[simp] theorem portRead_lcyc (a : Addr) (s : State) : ((portRead a s).2).lcyc = s.lcyc := by unfold portRead; split <;> simp
@[simp] theorem portRead_border (a : Addr) (s : State) : ((portRead a s).2).border = s.border := by unfold portRead; split <;> simp
@[simp] theorem portRead_flashCtr (a : Addr) (s : State) : ((portRead a s).2).flashCtr = s.flashCtr := by unfold portRead; split <;> simp
@[simp] theorem portRead_fb (a : Addr) (s : State) : ((portRead a s).2).fb = s.fb := by unfold portRead; split <;> simp
@[simp] theorem portRead_field (a : Addr) (s : State) : ((portRead a s).2).field = s.field := by unfold portRead; split <;> simp
@[simp] theorem portRead_flashInv (a : Addr) (s : State) : ((portRead a s).2).flashInv = s.flashInv := by unfold portRead; split <;> simp
@[simp] theorem portRead_tstates (a : Addr) (s : State) : ((portRead a s).2).tstates = s.tstates := by unfold portRead; split <;> simp
@[simp] theorem portRead_nextFrame (a : Addr) (s : State) : ((portRead a s).2).nextFrame = s.nextFrame := by unfold portRead; split <;> simp
@[simp] theorem portRead_present (a : Addr) (s : State) : ((portRead a s).2).present = s.present := by unfold portRead; split <;> simp
@[simp] theorem portRead_batchPos (a : Addr) (s : State) : ((portRead a s).2).batchPos = s.batchPos := by unfold portRead; split <;> simp
@[simp] theorem portRead_ended (a : Addr) (s : State) : ((portRead a s).2).ended = s.ended := by unfold portRead; split <;> simp
@[simp] theorem portRead_quits (a : Addr) (s : State) : ((portRead a s).2).quits = s.quits := by unfold portRead; split <;> simp
@[simp] theorem portRead_calls (a : Addr) (s : State) : ((portRead a s).2).calls = s.calls := by unfold portRead; split <;> simp
@[simp] theorem portRead_result (a : Addr) (s : State) : ((portRead a s).2).result = s.result := by unfold portRead; split <;> simp

/-! portWrite (R143) writes only: free, border, devs. -/

@[simp] theorem portWrite_cfg (a : Addr) (v : Byte) (s : State) : (portWrite a v s).cfg = s.cfg := by unfold portWrite; split <;> simp
@[simp] theorem portWrite_pins (a : Addr) (v : Byte) (s : State) : (portWrite a v s).pins = s.pins := by unfold portWrite; split <;> simp
@[simp] theorem portWrite_intLatch (a : Addr) (v : Byte) (s : State) : (portWrite a v s).intLatch = s.intLatch := by unfold portWrite; split <;> simp
@[simp] theorem portWrite_mem (a : Addr) (v : Byte) (s : State) : (portWrite a v s).mem = s.mem := by unfold portWrite; split <;> simp
@[simp] theorem portWrite_ioreg (a : Addr) (v : Byte) (s : State) : (portWrite a v s).ioreg = s.ioreg := by unfold portWrite; split <;> simp
@[simp] theorem portWrite_core (a : Addr) (v : Byte) (s : State) : (portWrite a v s).core = s.core := by unfold portWrite; split <;> simp
@[simp] theorem portWrite_line (a : Addr) (v : Byte) (s : State) : (portWrite a v s).line = s.line := by unfold portWrite; split <;> simp
@[simp] theorem portWrite_lcyc (a : Addr) (v : Byte) (s : State) : (portWrite a v s).lcyc = s.lcyc := by unfold portWrite; split <;> simp
@[simp] theorem portWrite_flashCtr (a : Addr) (v : Byte) (s : State) : (portWrite a v s).flashCtr = s.flashCtr := by unfold portWrite; split <;> simp
@[simp] theorem portWrite_fb (a : Addr) (v : Byte) (s : State) : (portWrite a v s).fb = s.fb := by unfold portWrite; split <;> simp
@[simp] theorem portWrite_field (a : Addr) (v : Byte) (s : State) : (portWrite a v s).field = s.field := by unfold portWrite; split <;> simp
@[simp] theorem portWrite_flashInv (a : Addr) (v : Byte) (s : State) : (portWrite a v s).flashInv = s.flashInv := by unfold portWrite; split <;> simp
@[simp] theorem portWrite_tstates (a : Addr) (v : Byte) (s : State) : (portWrite a v s).tstates = s.tstates := by unfold portWrite; split <;> simp
@[simp] theorem portWrite_nextFrame (a : Addr) (v : Byte) (s : State) : (portWrite a v s).nextFrame = s.nextFrame := by unfold portWrite; split <;> simp
@[simp] theorem portWrite_present (a : Addr) (v : Byte) (s : State) : (portWrite a v s).present = s.present := by unfold portWrite; split <;> simp
@[simp] theorem portWrite_batchPos (a : Addr) (v : Byte) (s : State) : (portWrite a v s).batchPos = s.batchPos := by unfold portWrite; split <;> simp
@[simp] theorem portWrite_ended (a : Addr) (v : Byte) (s : State) : (portWrite a v s).ended = s.ended := by unfold portWrite; split <;> simp
@[simp] theorem portWrite_quits (a : Addr) (v : Byte) (s : State) : (portWrite a v s).quits = s.quits := by unfold portWrite; split <;> simp
@[simp] theorem portWrite_calls (a : Addr) (v : Byte) (s : State) : (portWrite a v s).calls = s.calls := by unfold portWrite; split <;> simp
@[simp] theorem portWrite_result (a : Addr) (v : Byte) (s : State) : (portWrite a v s).result = s.result := by unfold portWrite; split <;> simp

/-! resolve (R160) writes only: pins, mem, border, free, devs. -/

@[simp] theorem resolve_cfg (p : PinWord) (s : State) : (resolve p s).cfg = s.cfg := by unfold resolve; split <;> simp [serveMemRead, serveMemWrite, serveIntAck, serveIoRead, serveIoWrite, serveIdle]
@[simp] theorem resolve_intLatch (p : PinWord) (s : State) : (resolve p s).intLatch = s.intLatch := by unfold resolve; split <;> simp [serveMemRead, serveMemWrite, serveIntAck, serveIoRead, serveIoWrite, serveIdle]
@[simp] theorem resolve_ioreg (p : PinWord) (s : State) : (resolve p s).ioreg = s.ioreg := by unfold resolve; split <;> simp [serveMemRead, serveMemWrite, serveIntAck, serveIoRead, serveIoWrite, serveIdle]
@[simp] theorem resolve_core (p : PinWord) (s : State) : (resolve p s).core = s.core := by unfold resolve; split <;> simp [serveMemRead, serveMemWrite, serveIntAck, serveIoRead, serveIoWrite, serveIdle]
@[simp] theorem resolve_line (p : PinWord) (s : State) : (resolve p s).line = s.line := by unfold resolve; split <;> simp [serveMemRead, serveMemWrite, serveIntAck, serveIoRead, serveIoWrite, serveIdle]
@[simp] theorem resolve_lcyc (p : PinWord) (s : State) : (resolve p s).lcyc = s.lcyc := by unfold resolve; split <;> simp [serveMemRead, serveMemWrite, serveIntAck, serveIoRead, serveIoWrite, serveIdle]
@[simp] theorem resolve_flashCtr (p : PinWord) (s : State) : (resolve p s).flashCtr = s.flashCtr := by unfold resolve; split <;> simp [serveMemRead, serveMemWrite, serveIntAck, serveIoRead, serveIoWrite, serveIdle]
@[simp] theorem resolve_fb (p : PinWord) (s : State) : (resolve p s).fb = s.fb := by unfold resolve; split <;> simp [serveMemRead, serveMemWrite, serveIntAck, serveIoRead, serveIoWrite, serveIdle]
@[simp] theorem resolve_field (p : PinWord) (s : State) : (resolve p s).field = s.field := by unfold resolve; split <;> simp [serveMemRead, serveMemWrite, serveIntAck, serveIoRead, serveIoWrite, serveIdle]
@[simp] theorem resolve_flashInv (p : PinWord) (s : State) : (resolve p s).flashInv = s.flashInv := by unfold resolve; split <;> simp [serveMemRead, serveMemWrite, serveIntAck, serveIoRead, serveIoWrite, serveIdle]
@[simp] theorem resolve_tstates (p : PinWord) (s : State) : (resolve p s).tstates = s.tstates := by unfold resolve; split <;> simp [serveMemRead, serveMemWrite, serveIntAck, serveIoRead, serveIoWrite, serveIdle]
@[simp] theorem resolve_nextFrame (p : PinWord) (s : State) : (resolve p s).nextFrame = s.nextFrame := by unfold resolve; split <;> simp [serveMemRead, serveMemWrite, serveIntAck, serveIoRead, serveIoWrite, serveIdle]
@[simp] theorem resolve_present (p : PinWord) (s : State) : (resolve p s).present = s.present := by unfold resolve; split <;> simp [serveMemRead, serveMemWrite, serveIntAck, serveIoRead, serveIoWrite, serveIdle]
@[simp] theorem resolve_batchPos (p : PinWord) (s : State) : (resolve p s).batchPos = s.batchPos := by unfold resolve; split <;> simp [serveMemRead, serveMemWrite, serveIntAck, serveIoRead, serveIoWrite, serveIdle]
@[simp] theorem resolve_ended (p : PinWord) (s : State) : (resolve p s).ended = s.ended := by unfold resolve; split <;> simp [serveMemRead, serveMemWrite, serveIntAck, serveIoRead, serveIoWrite, serveIdle]
@[simp] theorem resolve_quits (p : PinWord) (s : State) : (resolve p s).quits = s.quits := by unfold resolve; split <;> simp [serveMemRead, serveMemWrite, serveIntAck, serveIoRead, serveIoWrite, serveIdle]
@[simp] theorem resolve_calls (p : PinWord) (s : State) : (resolve p s).calls = s.calls := by unfold resolve; split <;> simp [serveMemRead, serveMemWrite, serveIntAck, serveIoRead, serveIoWrite, serveIdle]
@[simp] theorem resolve_result (p : PinWord) (s : State) : (resolve p s).result = s.result := by unfold resolve; split <;> simp [serveMemRead, serveMemWrite, serveIntAck, serveIoRead, serveIoWrite, serveIdle]

/-! fetchWord (R160) writes only: core. -/

@[simp] theorem fetchWord_cfg (s : State) : ((fetchWord s).2).cfg = s.cfg := rfl
@[simp] theorem fetchWord_pins (s : State) : ((fetchWord s).2).pins = s.pins := rfl
@[simp] theorem fetchWord_intLatch (s : State) : ((fetchWord s).2).intLatch = s.intLatch := rfl
@[simp] theorem fetchWord_mem (s : State) : ((fetchWord s).2).mem = s.mem := rfl
@[simp] theorem fetchWord_ioreg (s : State) : ((fetchWord s).2).ioreg = s.ioreg := rfl
@[simp] theorem fetchWord_line (s : State) : ((fetchWord s).2).line = s.line := rfl
@[simp] theorem fetchWord_lcyc (s : State) : ((fetchWord s).2).lcyc = s.lcyc := rfl
@[simp] theorem fetchWord_border (s : State) : ((fetchWord s).2).border = s.border := rfl
@[simp] theorem fetchWord_flashCtr (s : State) : ((fetchWord s).2).flashCtr = s.flashCtr := rfl
@[simp] theorem fetchWord_fb (s : State) : ((fetchWord s).2).fb = s.fb := rfl
@[simp] theorem fetchWord_field (s : State) : ((fetchWord s).2).field = s.field := rfl
@[simp] theorem fetchWord_flashInv (s : State) : ((fetchWord s).2).flashInv = s.flashInv := rfl
@[simp] theorem fetchWord_tstates (s : State) : ((fetchWord s).2).tstates = s.tstates := rfl
@[simp] theorem fetchWord_nextFrame (s : State) : ((fetchWord s).2).nextFrame = s.nextFrame := rfl
@[simp] theorem fetchWord_present (s : State) : ((fetchWord s).2).present = s.present := rfl
@[simp] theorem fetchWord_batchPos (s : State) : ((fetchWord s).2).batchPos = s.batchPos := rfl
@[simp] theorem fetchWord_ended (s : State) : ((fetchWord s).2).ended = s.ended := rfl
@[simp] theorem fetchWord_quits (s : State) : ((fetchWord s).2).quits = s.quits := rfl
@[simp] theorem fetchWord_free (s : State) : ((fetchWord s).2).free = s.free := rfl
@[simp] theorem fetchWord_calls (s : State) : ((fetchWord s).2).calls = s.calls := rfl
@[simp] theorem fetchWord_result (s : State) : ((fetchWord s).2).result = s.result := rfl
@[simp] theorem fetchWord_devs (s : State) : ((fetchWord s).2).devs = s.devs := rfl

/-! adapterTick (R160) writes only: pins, mem, border, free, devs, core. -/

@[simp] theorem adapterTick_cfg (s : State) : (adapterTick s).cfg = s.cfg := by simp [adapterTick]
@[simp] theorem adapterTick_intLatch (s : State) : (adapterTick s).intLatch = s.intLatch := by simp [adapterTick]
@[simp] theorem adapterTick_ioreg (s : State) : (adapterTick s).ioreg = s.ioreg := by simp [adapterTick]
@[simp] theorem adapterTick_line (s : State) : (adapterTick s).line = s.line := by simp [adapterTick]
@[simp] theorem adapterTick_lcyc (s : State) : (adapterTick s).lcyc = s.lcyc := by simp [adapterTick]
@[simp] theorem adapterTick_flashCtr (s : State) : (adapterTick s).flashCtr = s.flashCtr := by simp [adapterTick]
@[simp] theorem adapterTick_fb (s : State) : (adapterTick s).fb = s.fb := by simp [adapterTick]
@[simp] theorem adapterTick_field (s : State) : (adapterTick s).field = s.field := by simp [adapterTick]
@[simp] theorem adapterTick_flashInv (s : State) : (adapterTick s).flashInv = s.flashInv := by simp [adapterTick]
@[simp] theorem adapterTick_tstates (s : State) : (adapterTick s).tstates = s.tstates := by simp [adapterTick]
@[simp] theorem adapterTick_nextFrame (s : State) : (adapterTick s).nextFrame = s.nextFrame := by simp [adapterTick]
@[simp] theorem adapterTick_present (s : State) : (adapterTick s).present = s.present := by simp [adapterTick]
@[simp] theorem adapterTick_batchPos (s : State) : (adapterTick s).batchPos = s.batchPos := by simp [adapterTick]
@[simp] theorem adapterTick_ended (s : State) : (adapterTick s).ended = s.ended := by simp [adapterTick]
@[simp] theorem adapterTick_quits (s : State) : (adapterTick s).quits = s.quits := by simp [adapterTick]
@[simp] theorem adapterTick_calls (s : State) : (adapterTick s).calls = s.calls := by simp [adapterTick]
@[simp] theorem adapterTick_result (s : State) : (adapterTick s).result = s.result := by simp [adapterTick]

/-! updatePixels (R211) writes only: fb. -/

@[simp] theorem updatePixels_cfg (l c : Nat) (d a : Byte) (s : State) : (updatePixels l c d a s).cfg = s.cfg := by unfold updatePixels; split <;> rfl
@[simp] theorem updatePixels_pins (l c : Nat) (d a : Byte) (s : State) : (updatePixels l c d a s).pins = s.pins := by unfold updatePixels; split <;> rfl
@[simp] theorem updatePixels_intLatch (l c : Nat) (d a : Byte) (s : State) : (updatePixels l c d a s).intLatch = s.intLatch := by unfold updatePixels; split <;> rfl
@[simp] theorem updatePixels_mem (l c : Nat) (d a : Byte) (s : State) : (updatePixels l c d a s).mem = s.mem := by unfold updatePixels; split <;> rfl
@[simp] theorem updatePixels_ioreg (l c : Nat) (d a : Byte) (s : State) : (updatePixels l c d a s).ioreg = s.ioreg := by unfold updatePixels; split <;> rfl
@[simp] theorem updatePixels_core (l c : Nat) (d a : Byte) (s : State) : (updatePixels l c d a s).core = s.core := by unfold updatePixels; split <;> rfl
@[simp] theorem updatePixels_line (l c : Nat) (d a : Byte) (s : State) : (updatePixels l c d a s).line = s.line := by unfold updatePixels; split <;> rfl
@[simp] theorem updatePixels_lcyc (l c : Nat) (d a : Byte) (s : State) : (updatePixels l c d a s).lcyc = s.lcyc := by unfold updatePixels; split <;> rfl
@[simp] theorem updatePixels_border (l c : Nat) (d a : Byte) (s : State) : (updatePixels l c d a s).border = s.border := by unfold updatePixels; split <;> rfl
@[simp] theorem updatePixels_flashCtr (l c : Nat) (d a : Byte) (s : State) : (updatePixels l c d a s).flashCtr = s.flashCtr := by unfold updatePixels; split <;> rfl
@[simp] theorem updatePixels_field (l c : Nat) (d a : Byte) (s : State) : (updatePixels l c d a s).field = s.field := by unfold updatePixels; split <;> rfl
@[simp] theorem updatePixels_flashInv (l c : Nat) (d a : Byte) (s : State) : (updatePixels l c d a s).flashInv = s.flashInv := by unfold updatePixels; split <;> rfl
@[simp] theorem updatePixels_tstates (l c : Nat) (d a : Byte) (s : State) : (updatePixels l c d a s).tstates = s.tstates := by unfold updatePixels; split <;> rfl
@[simp] theorem updatePixels_nextFrame (l c : Nat) (d a : Byte) (s : State) : (updatePixels l c d a s).nextFrame = s.nextFrame := by unfold updatePixels; split <;> rfl
@[simp] theorem updatePixels_present (l c : Nat) (d a : Byte) (s : State) : (updatePixels l c d a s).present = s.present := by unfold updatePixels; split <;> rfl
@[simp] theorem updatePixels_batchPos (l c : Nat) (d a : Byte) (s : State) : (updatePixels l c d a s).batchPos = s.batchPos := by unfold updatePixels; split <;> rfl
@[simp] theorem updatePixels_ended (l c : Nat) (d a : Byte) (s : State) : (updatePixels l c d a s).ended = s.ended := by unfold updatePixels; split <;> rfl
@[simp] theorem updatePixels_quits (l c : Nat) (d a : Byte) (s : State) : (updatePixels l c d a s).quits = s.quits := by unfold updatePixels; split <;> rfl
@[simp] theorem updatePixels_free (l c : Nat) (d a : Byte) (s : State) : (updatePixels l c d a s).free = s.free := by unfold updatePixels; split <;> rfl
@[simp] theorem updatePixels_calls (l c : Nat) (d a : Byte) (s : State) : (updatePixels l c d a s).calls = s.calls := by unfold updatePixels; split <;> rfl
@[simp] theorem updatePixels_result (l c : Nat) (d a : Byte) (s : State) : (updatePixels l c d a s).result = s.result := by unfold updatePixels; split <;> rfl
@[simp] theorem updatePixels_devs (l c : Nat) (d a : Byte) (s : State) : (updatePixels l c d a s).devs = s.devs := by unfold updatePixels; split <;> rfl

/-! forwardCell (R184) writes only: fb. -/

@[simp] theorem forwardCell_cfg (s : State) : (forwardCell s).cfg = s.cfg := by unfold forwardCell screenCell borderCell; (repeat' split) <;> simp
@[simp] theorem forwardCell_pins (s : State) : (forwardCell s).pins = s.pins := by unfold forwardCell screenCell borderCell; (repeat' split) <;> simp
@[simp] theorem forwardCell_intLatch (s : State) : (forwardCell s).intLatch = s.intLatch := by unfold forwardCell screenCell borderCell; (repeat' split) <;> simp
@[simp] theorem forwardCell_mem (s : State) : (forwardCell s).mem = s.mem := by unfold forwardCell screenCell borderCell; (repeat' split) <;> simp
@[simp] theorem forwardCell_ioreg (s : State) : (forwardCell s).ioreg = s.ioreg := by unfold forwardCell screenCell borderCell; (repeat' split) <;> simp
@[simp] theorem forwardCell_core (s : State) : (forwardCell s).core = s.core := by unfold forwardCell screenCell borderCell; (repeat' split) <;> simp
@[simp] theorem forwardCell_line (s : State) : (forwardCell s).line = s.line := by unfold forwardCell screenCell borderCell; (repeat' split) <;> simp
@[simp] theorem forwardCell_lcyc (s : State) : (forwardCell s).lcyc = s.lcyc := by unfold forwardCell screenCell borderCell; (repeat' split) <;> simp
@[simp] theorem forwardCell_border (s : State) : (forwardCell s).border = s.border := by unfold forwardCell screenCell borderCell; (repeat' split) <;> simp
@[simp] theorem forwardCell_flashCtr (s : State) : (forwardCell s).flashCtr = s.flashCtr := by unfold forwardCell screenCell borderCell; (repeat' split) <;> simp
@[simp] theorem forwardCell_field (s : State) : (forwardCell s).field = s.field := by unfold forwardCell screenCell borderCell; (repeat' split) <;> simp
@[simp] theorem forwardCell_flashInv (s : State) : (forwardCell s).flashInv = s.flashInv := by unfold forwardCell screenCell borderCell; (repeat' split) <;> simp
@[simp] theorem forwardCell_tstates (s : State) : (forwardCell s).tstates = s.tstates := by unfold forwardCell screenCell borderCell; (repeat' split) <;> simp
@[simp] theorem forwardCell_nextFrame (s : State) : (forwardCell s).nextFrame = s.nextFrame := by unfold forwardCell screenCell borderCell; (repeat' split) <;> simp
@[simp] theorem forwardCell_present (s : State) : (forwardCell s).present = s.present := by unfold forwardCell screenCell borderCell; (repeat' split) <;> simp
@[simp] theorem forwardCell_batchPos (s : State) : (forwardCell s).batchPos = s.batchPos := by unfold forwardCell screenCell borderCell; (repeat' split) <;> simp
@[simp] theorem forwardCell_ended (s : State) : (forwardCell s).ended = s.ended := by unfold forwardCell screenCell borderCell; (repeat' split) <;> simp
@[simp] theorem forwardCell_quits (s : State) : (forwardCell s).quits = s.quits := by unfold forwardCell screenCell borderCell; (repeat' split) <;> simp
@[simp] theorem forwardCell_free (s : State) : (forwardCell s).free = s.free := by unfold forwardCell screenCell borderCell; (repeat' split) <;> simp
@[simp] theorem forwardCell_calls (s : State) : (forwardCell s).calls = s.calls := by unfold forwardCell screenCell borderCell; (repeat' split) <;> simp
@[simp] theorem forwardCell_result (s : State) : (forwardCell s).result = s.result := by unfold forwardCell screenCell borderCell; (repeat' split) <;> simp
@[simp] theorem forwardCell_devs (s : State) : (forwardCell s).devs = s.devs := by unfold forwardCell screenCell borderCell; (repeat' split) <;> simp

/-! interruptStep (R187) writes only: intLatch. -/

@[simp] theorem interruptStep_cfg (s : State) : (interruptStep s).cfg = s.cfg := by unfold interruptStep; (repeat' split) <;> simp
@[simp] theorem interruptStep_pins (s : State) : (interruptStep s).pins = s.pins := by unfold interruptStep; (repeat' split) <;> simp
@[simp] theorem interruptStep_mem (s : State) : (interruptStep s).mem = s.mem := by unfold interruptStep; (repeat' split) <;> simp
@[simp] theorem interruptStep_ioreg (s : State) : (interruptStep s).ioreg = s.ioreg := by unfold interruptStep; (repeat' split) <;> simp
@[simp] theorem interruptStep_core (s : State) : (interruptStep s).core = s.core := by unfold interruptStep; (repeat' split) <;> simp
@[simp] theorem interruptStep_line (s : State) : (interruptStep s).line = s.line := by unfold interruptStep; (repeat' split) <;> simp
@[simp] theorem interruptStep_lcyc (s : State) : (interruptStep s).lcyc = s.lcyc := by unfold interruptStep; (repeat' split) <;> simp
@[simp] theorem interruptStep_border (s : State) : (interruptStep s).border = s.border := by unfold interruptStep; (repeat' split) <;> simp
@[simp] theorem interruptStep_flashCtr (s : State) : (interruptStep s).flashCtr = s.flashCtr := by unfold interruptStep; (repeat' split) <;> simp
@[simp] theorem interruptStep_fb (s : State) : (interruptStep s).fb = s.fb := by unfold interruptStep; (repeat' split) <;> simp
@[simp] theorem interruptStep_field (s : State) : (interruptStep s).field = s.field := by unfold interruptStep; (repeat' split) <;> simp
@[simp] theorem interruptStep_flashInv (s : State) : (interruptStep s).flashInv = s.flashInv := by unfold interruptStep; (repeat' split) <;> simp
@[simp] theorem interruptStep_tstates (s : State) : (interruptStep s).tstates = s.tstates := by unfold interruptStep; (repeat' split) <;> simp
@[simp] theorem interruptStep_nextFrame (s : State) : (interruptStep s).nextFrame = s.nextFrame := by unfold interruptStep; (repeat' split) <;> simp
@[simp] theorem interruptStep_present (s : State) : (interruptStep s).present = s.present := by unfold interruptStep; (repeat' split) <;> simp
@[simp] theorem interruptStep_batchPos (s : State) : (interruptStep s).batchPos = s.batchPos := by unfold interruptStep; (repeat' split) <;> simp
@[simp] theorem interruptStep_ended (s : State) : (interruptStep s).ended = s.ended := by unfold interruptStep; (repeat' split) <;> simp
@[simp] theorem interruptStep_quits (s : State) : (interruptStep s).quits = s.quits := by unfold interruptStep; (repeat' split) <;> simp
@[simp] theorem interruptStep_free (s : State) : (interruptStep s).free = s.free := by unfold interruptStep; (repeat' split) <;> simp
@[simp] theorem interruptStep_calls (s : State) : (interruptStep s).calls = s.calls := by unfold interruptStep; (repeat' split) <;> simp
@[simp] theorem interruptStep_result (s : State) : (interruptStep s).result = s.result := by unfold interruptStep; (repeat' split) <;> simp
@[simp] theorem interruptStep_devs (s : State) : (interruptStep s).devs = s.devs := by unfold interruptStep; (repeat' split) <;> simp

/-! endField (R188) writes only: line, field, flashCtr, flashInv. -/

@[simp] theorem endField_cfg (s : State) : (endField s).cfg = s.cfg := by unfold endField; split <;> rfl
@[simp] theorem endField_pins (s : State) : (endField s).pins = s.pins := by unfold endField; split <;> rfl
@[simp] theorem endField_intLatch (s : State) : (endField s).intLatch = s.intLatch := by unfold endField; split <;> rfl
@[simp] theorem endField_mem (s : State) : (endField s).mem = s.mem := by unfold endField; split <;> rfl
@[simp] theorem endField_ioreg (s : State) : (endField s).ioreg = s.ioreg := by unfold endField; split <;> rfl
@[simp] theorem endField_core (s : State) : (endField s).core = s.core := by unfold endField; split <;> rfl
@[simp] theorem endField_lcyc (s : State) : (endField s).lcyc = s.lcyc := by unfold endField; split <;> rfl
@[simp] theorem endField_border (s : State) : (endField s).border = s.border := by unfold endField; split <;> rfl
@[simp] theorem endField_fb (s : State) : (endField s).fb = s.fb := by unfold endField; split <;> rfl
@[simp] theorem endField_tstates (s : State) : (endField s).tstates = s.tstates := by unfold endField; split <;> rfl
@[simp] theorem endField_nextFrame (s : State) : (endField s).nextFrame = s.nextFrame := by unfold endField; split <;> rfl
@[simp] theorem endField_present (s : State) : (endField s).present = s.present := by unfold endField; split <;> rfl
@[simp] theorem endField_batchPos (s : State) : (endField s).batchPos = s.batchPos := by unfold endField; split <;> rfl
@[simp] theorem endField_ended (s : State) : (endField s).ended = s.ended := by unfold endField; split <;> rfl
@[simp] theorem endField_quits (s : State) : (endField s).quits = s.quits := by unfold endField; split <;> rfl
@[simp] theorem endField_free (s : State) : (endField s).free = s.free := by unfold endField; split <;> rfl
@[simp] theorem endField_calls (s : State) : (endField s).calls = s.calls := by unfold endField; split <;> rfl
@[simp] theorem endField_result (s : State) : (endField s).result = s.result := by unfold endField; split <;> rfl
@[simp] theorem endField_devs (s : State) : (endField s).devs = s.devs := by unfold endField; split <;> rfl

/-! advance (R188) writes only: lcyc, line, field, flashCtr, flashInv. -/

@[simp] theorem advance_cfg (s : State) : (advance s).cfg = s.cfg := by unfold advance; (repeat' split) <;> simp
@[simp] theorem advance_pins (s : State) : (advance s).pins = s.pins := by unfold advance; (repeat' split) <;> simp
@[simp] theorem advance_intLatch (s : State) : (advance s).intLatch = s.intLatch := by unfold advance; (repeat' split) <;> simp
@[simp] theorem advance_mem (s : State) : (advance s).mem = s.mem := by unfold advance; (repeat' split) <;> simp
@[simp] theorem advance_ioreg (s : State) : (advance s).ioreg = s.ioreg := by unfold advance; (repeat' split) <;> simp
@[simp] theorem advance_core (s : State) : (advance s).core = s.core := by unfold advance; (repeat' split) <;> simp
@[simp] theorem advance_border (s : State) : (advance s).border = s.border := by unfold advance; (repeat' split) <;> simp
@[simp] theorem advance_fb (s : State) : (advance s).fb = s.fb := by unfold advance; (repeat' split) <;> simp
@[simp] theorem advance_tstates (s : State) : (advance s).tstates = s.tstates := by unfold advance; (repeat' split) <;> simp
@[simp] theorem advance_nextFrame (s : State) : (advance s).nextFrame = s.nextFrame := by unfold advance; (repeat' split) <;> simp
@[simp] theorem advance_present (s : State) : (advance s).present = s.present := by unfold advance; (repeat' split) <;> simp
@[simp] theorem advance_batchPos (s : State) : (advance s).batchPos = s.batchPos := by unfold advance; (repeat' split) <;> simp
@[simp] theorem advance_ended (s : State) : (advance s).ended = s.ended := by unfold advance; (repeat' split) <;> simp
@[simp] theorem advance_quits (s : State) : (advance s).quits = s.quits := by unfold advance; (repeat' split) <;> simp
@[simp] theorem advance_free (s : State) : (advance s).free = s.free := by unfold advance; (repeat' split) <;> simp
@[simp] theorem advance_calls (s : State) : (advance s).calls = s.calls := by unfold advance; (repeat' split) <;> simp
@[simp] theorem advance_result (s : State) : (advance s).result = s.result := by unfold advance; (repeat' split) <;> simp
@[simp] theorem advance_devs (s : State) : (advance s).devs = s.devs := by unfold advance; (repeat' split) <;> simp

/-! controllerSteps (R181) writes only: fb, intLatch, lcyc, line, field, flashCtr, flashInv. -/

@[simp] theorem controllerSteps_cfg (s : State) : (controllerSteps s).cfg = s.cfg := by simp [controllerSteps]
@[simp] theorem controllerSteps_pins (s : State) : (controllerSteps s).pins = s.pins := by simp [controllerSteps]
@[simp] theorem controllerSteps_mem (s : State) : (controllerSteps s).mem = s.mem := by simp [controllerSteps]
@[simp] theorem controllerSteps_ioreg (s : State) : (controllerSteps s).ioreg = s.ioreg := by simp [controllerSteps]
@[simp] theorem controllerSteps_core (s : State) : (controllerSteps s).core = s.core := by simp [controllerSteps]
@[simp] theorem controllerSteps_border (s : State) : (controllerSteps s).border = s.border := by simp [controllerSteps]
@[simp] theorem controllerSteps_tstates (s : State) : (controllerSteps s).tstates = s.tstates := by simp [controllerSteps]
@[simp] theorem controllerSteps_nextFrame (s : State) : (controllerSteps s).nextFrame = s.nextFrame := by simp [controllerSteps]
@[simp] theorem controllerSteps_present (s : State) : (controllerSteps s).present = s.present := by simp [controllerSteps]
@[simp] theorem controllerSteps_batchPos (s : State) : (controllerSteps s).batchPos = s.batchPos := by simp [controllerSteps]
@[simp] theorem controllerSteps_ended (s : State) : (controllerSteps s).ended = s.ended := by simp [controllerSteps]
@[simp] theorem controllerSteps_quits (s : State) : (controllerSteps s).quits = s.quits := by simp [controllerSteps]
@[simp] theorem controllerSteps_free (s : State) : (controllerSteps s).free = s.free := by simp [controllerSteps]
@[simp] theorem controllerSteps_calls (s : State) : (controllerSteps s).calls = s.calls := by simp [controllerSteps]
@[simp] theorem controllerSteps_result (s : State) : (controllerSteps s).result = s.result := by simp [controllerSteps]
@[simp] theorem controllerSteps_devs (s : State) : (controllerSteps s).devs = s.devs := by simp [controllerSteps]

/-! controllerTick (R181) writes only: pins, mem, border, free, devs, core, fb, intLatch, lcyc, line, field, flashCtr, flashInv. -/

@[simp] theorem controllerTick_cfg (s : State) : (controllerTick s).cfg = s.cfg := by simp [controllerTick]
@[simp] theorem controllerTick_ioreg (s : State) : (controllerTick s).ioreg = s.ioreg := by simp [controllerTick]
@[simp] theorem controllerTick_tstates (s : State) : (controllerTick s).tstates = s.tstates := by simp [controllerTick]
@[simp] theorem controllerTick_nextFrame (s : State) : (controllerTick s).nextFrame = s.nextFrame := by simp [controllerTick]
@[simp] theorem controllerTick_present (s : State) : (controllerTick s).present = s.present := by simp [controllerTick]
@[simp] theorem controllerTick_batchPos (s : State) : (controllerTick s).batchPos = s.batchPos := by simp [controllerTick]
@[simp] theorem controllerTick_ended (s : State) : (controllerTick s).ended = s.ended := by simp [controllerTick]
@[simp] theorem controllerTick_quits (s : State) : (controllerTick s).quits = s.quits := by simp [controllerTick]
@[simp] theorem controllerTick_calls (s : State) : (controllerTick s).calls = s.calls := by simp [controllerTick]
@[simp] theorem controllerTick_result (s : State) : (controllerTick s).result = s.result := by simp [controllerTick]

/-! tick (R241) writes only: pins, mem, border, free, devs, core, fb, intLatch, lcyc, line, field, flashCtr, flashInv, tstates. -/

@[simp] theorem tick_cfg (s : State) : (tick s).cfg = s.cfg := by simp [tick, countTick]
@[simp] theorem tick_ioreg (s : State) : (tick s).ioreg = s.ioreg := by simp [tick, countTick]
@[simp] theorem tick_nextFrame (s : State) : (tick s).nextFrame = s.nextFrame := by simp [tick, countTick]
@[simp] theorem tick_present (s : State) : (tick s).present = s.present := by simp [tick, countTick]
@[simp] theorem tick_batchPos (s : State) : (tick s).batchPos = s.batchPos := by simp [tick, countTick]
@[simp] theorem tick_ended (s : State) : (tick s).ended = s.ended := by simp [tick, countTick]
@[simp] theorem tick_quits (s : State) : (tick s).quits = s.quits := by simp [tick, countTick]
@[simp] theorem tick_calls (s : State) : (tick s).calls = s.calls := by simp [tick, countTick]
@[simp] theorem tick_result (s : State) : (tick s).result = s.result := by simp [tick, countTick]

/-! ticks (R241) writes only: pins, mem, border, free, devs, core, fb, intLatch, lcyc, line, field, flashCtr, flashInv, tstates. -/

@[simp] theorem ticks_cfg (n : Nat) (s : State) : (ticks n s).cfg = s.cfg := by induction n generalizing s with
  | zero => rfl
  | succ n ih => simp [ticks, ih]
@[simp] theorem ticks_ioreg (n : Nat) (s : State) : (ticks n s).ioreg = s.ioreg := by induction n generalizing s with
  | zero => rfl
  | succ n ih => simp [ticks, ih]
@[simp] theorem ticks_nextFrame (n : Nat) (s : State) : (ticks n s).nextFrame = s.nextFrame := by induction n generalizing s with
  | zero => rfl
  | succ n ih => simp [ticks, ih]
@[simp] theorem ticks_present (n : Nat) (s : State) : (ticks n s).present = s.present := by induction n generalizing s with
  | zero => rfl
  | succ n ih => simp [ticks, ih]
@[simp] theorem ticks_batchPos (n : Nat) (s : State) : (ticks n s).batchPos = s.batchPos := by induction n generalizing s with
  | zero => rfl
  | succ n ih => simp [ticks, ih]
@[simp] theorem ticks_ended (n : Nat) (s : State) : (ticks n s).ended = s.ended := by induction n generalizing s with
  | zero => rfl
  | succ n ih => simp [ticks, ih]
@[simp] theorem ticks_quits (n : Nat) (s : State) : (ticks n s).quits = s.quits := by induction n generalizing s with
  | zero => rfl
  | succ n ih => simp [ticks, ih]
@[simp] theorem ticks_calls (n : Nat) (s : State) : (ticks n s).calls = s.calls := by induction n generalizing s with
  | zero => rfl
  | succ n ih => simp [ticks, ih]
@[simp] theorem ticks_result (n : Nat) (s : State) : (ticks n s).result = s.result := by induction n generalizing s with
  | zero => rfl
  | succ n ih => simp [ticks, ih]

/-! refresh (R221) writes only: present. -/

@[simp] theorem refresh_cfg (s : State) : (refresh s).cfg = s.cfg := rfl
@[simp] theorem refresh_pins (s : State) : (refresh s).pins = s.pins := rfl
@[simp] theorem refresh_intLatch (s : State) : (refresh s).intLatch = s.intLatch := rfl
@[simp] theorem refresh_mem (s : State) : (refresh s).mem = s.mem := rfl
@[simp] theorem refresh_ioreg (s : State) : (refresh s).ioreg = s.ioreg := rfl
@[simp] theorem refresh_core (s : State) : (refresh s).core = s.core := rfl
@[simp] theorem refresh_line (s : State) : (refresh s).line = s.line := rfl
@[simp] theorem refresh_lcyc (s : State) : (refresh s).lcyc = s.lcyc := rfl
@[simp] theorem refresh_border (s : State) : (refresh s).border = s.border := rfl
@[simp] theorem refresh_flashCtr (s : State) : (refresh s).flashCtr = s.flashCtr := rfl
@[simp] theorem refresh_fb (s : State) : (refresh s).fb = s.fb := rfl
@[simp] theorem refresh_field (s : State) : (refresh s).field = s.field := rfl
@[simp] theorem refresh_flashInv (s : State) : (refresh s).flashInv = s.flashInv := rfl
@[simp] theorem refresh_tstates (s : State) : (refresh s).tstates = s.tstates := rfl
@[simp] theorem refresh_nextFrame (s : State) : (refresh s).nextFrame = s.nextFrame := rfl
@[simp] theorem refresh_batchPos (s : State) : (refresh s).batchPos = s.batchPos := rfl
@[simp] theorem refresh_ended (s : State) : (refresh s).ended = s.ended := rfl
@[simp] theorem refresh_quits (s : State) : (refresh s).quits = s.quits := rfl
@[simp] theorem refresh_free (s : State) : (refresh s).free = s.free := rfl
@[simp] theorem refresh_calls (s : State) : (refresh s).calls = s.calls := rfl
@[simp] theorem refresh_result (s : State) : (refresh s).result = s.result := rfl
@[simp] theorem refresh_devs (s : State) : (refresh s).devs = s.devs := rfl

/-! frameTest (R242) writes only: present, nextFrame. -/

@[simp] theorem frameTest_cfg (s : State) : (frameTest s).cfg = s.cfg := by unfold frameTest; split <;> simp
@[simp] theorem frameTest_pins (s : State) : (frameTest s).pins = s.pins := by unfold frameTest; split <;> simp
@[simp] theorem frameTest_intLatch (s : State) : (frameTest s).intLatch = s.intLatch := by unfold frameTest; split <;> simp
@[simp] theorem frameTest_mem (s : State) : (frameTest s).mem = s.mem := by unfold frameTest; split <;> simp
@[simp] theorem frameTest_ioreg (s : State) : (frameTest s).ioreg = s.ioreg := by unfold frameTest; split <;> simp
@[simp] theorem frameTest_core (s : State) : (frameTest s).core = s.core := by unfold frameTest; split <;> simp
@[simp] theorem frameTest_line (s : State) : (frameTest s).line = s.line := by unfold frameTest; split <;> simp
@[simp] theorem frameTest_lcyc (s : State) : (frameTest s).lcyc = s.lcyc := by unfold frameTest; split <;> simp
@[simp] theorem frameTest_border (s : State) : (frameTest s).border = s.border := by unfold frameTest; split <;> simp
@[simp] theorem frameTest_flashCtr (s : State) : (frameTest s).flashCtr = s.flashCtr := by unfold frameTest; split <;> simp
@[simp] theorem frameTest_fb (s : State) : (frameTest s).fb = s.fb := by unfold frameTest; split <;> simp
@[simp] theorem frameTest_field (s : State) : (frameTest s).field = s.field := by unfold frameTest; split <;> simp
@[simp] theorem frameTest_flashInv (s : State) : (frameTest s).flashInv = s.flashInv := by unfold frameTest; split <;> simp
@[simp] theorem frameTest_tstates (s : State) : (frameTest s).tstates = s.tstates := by unfold frameTest; split <;> simp
@[simp] theorem frameTest_batchPos (s : State) : (frameTest s).batchPos = s.batchPos := by unfold frameTest; split <;> simp
@[simp] theorem frameTest_ended (s : State) : (frameTest s).ended = s.ended := by unfold frameTest; split <;> simp
@[simp] theorem frameTest_quits (s : State) : (frameTest s).quits = s.quits := by unfold frameTest; split <;> simp
@[simp] theorem frameTest_free (s : State) : (frameTest s).free = s.free := by unfold frameTest; split <;> simp
@[simp] theorem frameTest_calls (s : State) : (frameTest s).calls = s.calls := by unfold frameTest; split <;> simp
@[simp] theorem frameTest_result (s : State) : (frameTest s).result = s.result := by unfold frameTest; split <;> simp
@[simp] theorem frameTest_devs (s : State) : (frameTest s).devs = s.devs := by unfold frameTest; split <;> simp

/-! sampleQuit (R247) writes only: quits, free. -/

@[simp] theorem sampleQuit_cfg (s : State) : ((sampleQuit s).2).cfg = s.cfg := by unfold sampleQuit; split <;> rfl
@[simp] theorem sampleQuit_pins (s : State) : ((sampleQuit s).2).pins = s.pins := by unfold sampleQuit; split <;> rfl
@[simp] theorem sampleQuit_intLatch (s : State) : ((sampleQuit s).2).intLatch = s.intLatch := by unfold sampleQuit; split <;> rfl
@[simp] theorem sampleQuit_mem (s : State) : ((sampleQuit s).2).mem = s.mem := by unfold sampleQuit; split <;> rfl
@[simp] theorem sampleQuit_ioreg (s : State) : ((sampleQuit s).2).ioreg = s.ioreg := by unfold sampleQuit; split <;> rfl
@[simp] theorem sampleQuit_core (s : State) : ((sampleQuit s).2).core = s.core := by unfold sampleQuit; split <;> rfl
@[simp] theorem sampleQuit_line (s : State) : ((sampleQuit s).2).line = s.line := by unfold sampleQuit; split <;> rfl
@[simp] theorem sampleQuit_lcyc (s : State) : ((sampleQuit s).2).lcyc = s.lcyc := by unfold sampleQuit; split <;> rfl
@[simp] theorem sampleQuit_border (s : State) : ((sampleQuit s).2).border = s.border := by unfold sampleQuit; split <;> rfl
@[simp] theorem sampleQuit_flashCtr (s : State) : ((sampleQuit s).2).flashCtr = s.flashCtr := by unfold sampleQuit; split <;> rfl
@[simp] theorem sampleQuit_fb (s : State) : ((sampleQuit s).2).fb = s.fb := by unfold sampleQuit; split <;> rfl
@[simp] theorem sampleQuit_field (s : State) : ((sampleQuit s).2).field = s.field := by unfold sampleQuit; split <;> rfl
@[simp] theorem sampleQuit_flashInv (s : State) : ((sampleQuit s).2).flashInv = s.flashInv := by unfold sampleQuit; split <;> rfl
@[simp] theorem sampleQuit_tstates (s : State) : ((sampleQuit s).2).tstates = s.tstates := by unfold sampleQuit; split <;> rfl
@[simp] theorem sampleQuit_nextFrame (s : State) : ((sampleQuit s).2).nextFrame = s.nextFrame := by unfold sampleQuit; split <;> rfl
@[simp] theorem sampleQuit_present (s : State) : ((sampleQuit s).2).present = s.present := by unfold sampleQuit; split <;> rfl
@[simp] theorem sampleQuit_batchPos (s : State) : ((sampleQuit s).2).batchPos = s.batchPos := by unfold sampleQuit; split <;> rfl
@[simp] theorem sampleQuit_ended (s : State) : ((sampleQuit s).2).ended = s.ended := by unfold sampleQuit; split <;> rfl
@[simp] theorem sampleQuit_calls (s : State) : ((sampleQuit s).2).calls = s.calls := by unfold sampleQuit; split <;> rfl
@[simp] theorem sampleQuit_result (s : State) : ((sampleQuit s).2).result = s.result := by unfold sampleQuit; split <;> rfl
@[simp] theorem sampleQuit_devs (s : State) : ((sampleQuit s).2).devs = s.devs := by unfold sampleQuit; split <;> rfl

/-! endBatch (R240) writes only: quits, free, present, nextFrame. -/

@[simp] theorem endBatch_cfg (s : State) : ((endBatch s).2).cfg = s.cfg := by simp [endBatch, pace]
@[simp] theorem endBatch_pins (s : State) : ((endBatch s).2).pins = s.pins := by simp [endBatch, pace]
@[simp] theorem endBatch_intLatch (s : State) : ((endBatch s).2).intLatch = s.intLatch := by simp [endBatch, pace]
@[simp] theorem endBatch_mem (s : State) : ((endBatch s).2).mem = s.mem := by simp [endBatch, pace]
@[simp] theorem endBatch_ioreg (s : State) : ((endBatch s).2).ioreg = s.ioreg := by simp [endBatch, pace]
@[simp] theorem endBatch_core (s : State) : ((endBatch s).2).core = s.core := by simp [endBatch, pace]
@[simp] theorem endBatch_line (s : State) : ((endBatch s).2).line = s.line := by simp [endBatch, pace]
@[simp] theorem endBatch_lcyc (s : State) : ((endBatch s).2).lcyc = s.lcyc := by simp [endBatch, pace]
@[simp] theorem endBatch_border (s : State) : ((endBatch s).2).border = s.border := by simp [endBatch, pace]
@[simp] theorem endBatch_flashCtr (s : State) : ((endBatch s).2).flashCtr = s.flashCtr := by simp [endBatch, pace]
@[simp] theorem endBatch_fb (s : State) : ((endBatch s).2).fb = s.fb := by simp [endBatch, pace]
@[simp] theorem endBatch_field (s : State) : ((endBatch s).2).field = s.field := by simp [endBatch, pace]
@[simp] theorem endBatch_flashInv (s : State) : ((endBatch s).2).flashInv = s.flashInv := by simp [endBatch, pace]
@[simp] theorem endBatch_tstates (s : State) : ((endBatch s).2).tstates = s.tstates := by simp [endBatch, pace]
@[simp] theorem endBatch_batchPos (s : State) : ((endBatch s).2).batchPos = s.batchPos := by simp [endBatch, pace]
@[simp] theorem endBatch_ended (s : State) : ((endBatch s).2).ended = s.ended := by simp [endBatch, pace]
@[simp] theorem endBatch_calls (s : State) : ((endBatch s).2).calls = s.calls := by simp [endBatch, pace]
@[simp] theorem endBatch_result (s : State) : ((endBatch s).2).result = s.result := by simp [endBatch, pace]
@[simp] theorem endBatch_devs (s : State) : ((endBatch s).2).devs = s.devs := by simp [endBatch, pace]

/-! runBatch (R240) writes only: pins, mem, border, free, devs, core, fb, intLatch, lcyc, line, field, flashCtr, flashInv, tstates, quits, present, nextFrame. -/

@[simp] theorem runBatch_cfg (s : State) : ((runBatch s).2).cfg = s.cfg := by simp [runBatch]
@[simp] theorem runBatch_ioreg (s : State) : ((runBatch s).2).ioreg = s.ioreg := by simp [runBatch]
@[simp] theorem runBatch_batchPos (s : State) : ((runBatch s).2).batchPos = s.batchPos := by simp [runBatch]
@[simp] theorem runBatch_ended (s : State) : ((runBatch s).2).ended = s.ended := by simp [runBatch]
@[simp] theorem runBatch_calls (s : State) : ((runBatch s).2).calls = s.calls := by simp [runBatch]
@[simp] theorem runBatch_result (s : State) : ((runBatch s).2).result = s.result := by simp [runBatch]

end Sys2Proof.Machine
end

