-- ==== Sys2Proof/Laws/Adapter.lean ====
section
/-! SUPPORT. The adapter: running a decoded pin word is resolving the word (44_cpu_adapter.md R160), and what each served transaction leaves. -/
namespace Sys2Proof.Machine

/-- R160: exactly one transaction is run, the one the word decodes to, and it always completes. -/
theorem exec_decodePin (p : PinWord) (s : State) : exec (decodePin p) s = .next (resolve p s) := by
  unfold decodePin resolve
  cases classify p <;>
    simp [exec, execMemRead, execMemWrite, execIntAck, execIoRead, execIoWrite, execBusIdle]

/-- R160, R181: the fetch and the transaction of a T-state are the adapter's tick. -/
theorem exec_fetchWord (s : State) : exec (decodePin (fetchWord s).1) (fetchWord s).2 = .next (adapterTick s) :=
  exec_decodePin _ _

/-- A bus write in a T-state is the one its word asks for (R164, R131). -/
theorem memGet_resolve (p : PinWord) (s : State) (b : Addr) :
    memGet (resolve p s).mem b =
      if classify p = .memWrite ∧ b = pinGetAddr p ∧ romEnd ≤ (pinGetAddr p).toNat then pinGetData p else memGet s.mem b := by
  unfold resolve
  cases h : classify p <;>
    simp [serveMemRead, serveMemWrite, serveIntAck, serveIoRead, serveIoWrite, serveIdle, memGet_memPut]

/-- Resolving a word keeps Memory canonical. -/
theorem resolve_mem_wf {s : State} (h : Memory.wf s.mem) (p : PinWord) : Memory.wf (resolve p s).mem := by
  unfold resolve
  cases classify p <;>
    simp only [serveMemRead, serveMemWrite, serveIntAck, serveIoRead, serveIoWrite, serveIdle, portRead_mem, portWrite_mem]
  case memWrite => exact memPut_wf h _ _
  all_goals exact h

/-- A transaction neither reads nor writes CORE (R162 to R168). -/
theorem resolve_setCore (p : PinWord) (c : CoreState) (s : State) :
    resolve p { s with core := c } = { resolve p s with core := c } := by
  have sel : ∀ a, selectDevice a { s with core := c } = ((selectDevice a s).1, { (selectDevice a s).2 with core := c }) := fun _ => rfl
  unfold resolve
  cases classify p
  case ioRead =>
    simp only [serveIoRead, portRead, sel]
    cases (selectDevice (pinGetAddr p) s).1 with
    | none => rfl
    | some d => cases d <;> rfl
  case ioWrite =>
    simp only [serveIoWrite, portWrite, sel]
    cases (selectDevice (pinGetAddr p) s).1 with
    | none => rfl
    | some d => cases d <;> rfl
  all_goals rfl

/-- R108: the tick of a stimulus is a tick of the core (R154's law ends), then the transaction of the word. -/
theorem scriptedTick_eq (flags : PinWord) (addr : Addr) (data : Byte) (s : State) : scriptedTick flags addr data s =
    resolve (pinPack flags (addr.zeroExtend 64) (data.zeroExtend 64)) { s with core := { s.core with held := [] } } := by
  simp only [scriptedTick, adapterTick, fetchWord, coreStep, resolve_setCore]

/-- Whatever the transaction, PINS keeps the control part and the address of the word (R162 to R168). -/
theorem resolve_pins_parts (p : PinWord) (s : State) :
    pinCtl (resolve p s).pins = pinCtl p ∧ pinGetAddr (resolve p s).pins = pinGetAddr p := by
  have place : ∀ v, pinCtl (placeData p v) = pinCtl p ∧ pinGetAddr (placeData p v) = pinGetAddr p := by
    intro v
    have h := placeData_pinJoin (pinCtl p) (pinGetData p) v (pinGetAddr p)
    rw [pinJoin_parts] at h
    simp [h]
  unfold resolve
  cases classify p <;> simp [serveMemRead, serveMemWrite, serveIntAck, serveIoRead, serveIoWrite, serveIdle, place]

/-- A port read keeps the canonical form of the devices' states (R142, R140). -/
theorem portRead_devs_wf {s : State} (h : devsWf s.devs) (a : Addr) : devsWf (portRead a s).2.devs := by
  unfold portRead
  split
  · rename_i d _
    cases d with
    | ula => exact h
    | stub _ => exact h
    | ext _ => exact devSet_wf h _ _
  · exact h

/-- A port write keeps the canonical form of the devices' states (R143, R140). -/
theorem portWrite_devs_wf {s : State} (h : devsWf s.devs) (a : Addr) (v : Byte) : devsWf (portWrite a v s).devs := by
  unfold portWrite
  split
  · rename_i d _
    cases d with
    | ula => exact h
    | stub _ => exact h
    | ext _ => exact devSet_wf h _ _
  · exact h

/-- Resolving a word keeps the canonical form of the devices' states. -/
theorem resolve_devs_wf {s : State} (h : devsWf s.devs) (p : PinWord) : devsWf (resolve p s).devs := by
  unfold resolve
  cases classify p
  case ioRead => exact portRead_devs_wf h _
  case ioWrite => exact portWrite_devs_wf h _ _
  all_goals exact h

/-- An adapter tick keeps the canonical form of the devices' states. -/
theorem adapterTick_devs_wf {s : State} (h : devsWf s.devs) : devsWf (adapterTick s).devs := by
  unfold adapterTick
  exact resolve_devs_wf (by rw [fetchWord_devs]; exact h) _

/-- A port write changes BORDER only through a covering controller (R143, R190). -/
theorem portWrite_border (a : Addr) (v : Byte) (s : State) :
    (portWrite a v s).border = s.border
      ∨ (∃ e ∈ s.ioreg, covers e.1 a = true ∧ e.2 = .ula) ∧ (portWrite a v s).border = borderOf v := by
  have sel : ∀ d, (selectDevice a s).1 = some d → ∃ e ∈ s.ioreg, covers e.1 a = true ∧ e.2 = d := by
    intro d hd
    have hmem : d ∈ coveringDevices s.ioreg a := by
      unfold selectDevice pickDevice at hd
      generalize coveringDevices s.ioreg a = l at hd
      match l, hd with
      | [x], hd => simp_all
      | x :: y :: ds, hd =>
        cases hdis : s.cfg.dispatch <;> simp only [hdis] at hd
        · simp_all
        · exact List.mem_of_getElem? hd
    simpa [coveringDevices, and_assoc] using hmem
  unfold portWrite
  split
  · rename_i d hd
    cases d with
    | ula => exact .inr ⟨sel _ hd, by simp [deviceWrite, borderWrite]⟩
    | stub _ => exact .inl (by simp [deviceWrite])
    | ext _ => exact .inl (by simp [deviceWrite])
  · exact .inl (by simp)

end Sys2Proof.Machine
end

