-- ==== Sys2Proof/Laws/Core.lean ====
section
/-! SUPPORT. The core's register file by name (10_state.md R25), and what a setter and a prefetch do to CORE, each said once
(43_cpu_core_contract.md R152, R154). -/
namespace Sys2Proof.Machine

/-- A register written reads as written, for every value of its width (R154). -/
theorem regGet_regSet_self (reg : CoreReg) (f : CoreRegs) {v : BitVec 16} (hv : v.toNat < 2 ^ reg.width) :
    regGet reg (regSet reg v f) = v := by
  cases reg <;> simp only [CoreReg.width] at hv <;> simp only [regGet, regSet]
  case i | r | im =>
    apply BitVec.eq_of_toNat_eq
    simp only [BitVec.truncate_eq_setWidth, BitVec.toNat_setWidth]
    omega
  case iff1 | iff2 =>
    have : v = 0 ∨ v = 1 := by
      rcases v with ⟨⟨n, hn⟩⟩
      have hn' : n < 2 := hv
      match n, hn' with
      | 0, _ => exact .inl rfl
      | 1, _ => exact .inr rfl
    rcases this with rfl | rfl <;> rfl

/-- A register written leaves every other one. -/
theorem regGet_regSet_ne {reg other : CoreReg} (h : other ≠ reg) (v : BitVec 16) (f : CoreRegs) :
    regGet other (regSet reg v f) = regGet other f := by
  cases reg <;> cases other <;> first | exact absurd rfl h | rfl

/-- A register reads a value of its width. -/
theorem regGet_lt (reg : CoreReg) (f : CoreRegs) : (regGet reg f).toNat < 2 ^ reg.width := by
  cases reg <;> simp only [regGet, CoreReg.width] <;> try exact BitVec.isLt _
  case i | r | im => rw [BitVec.zeroExtend, BitVec.toNat_setWidth]; omega
  case iff1 => cases f.iff1 <;> decide
  case iff2 => cases f.iff2 <;> decide

/-- The names read the whole register file. -/
theorem coreRegs_eq {f g : CoreRegs} (h : ∀ reg, regGet reg f = regGet reg g) : f = g := by
  have byte : ∀ x y : BitVec 8, x.zeroExtend 16 = y.zeroExtend 16 → x = y := by
    intro x y hxy
    have := congrArg BitVec.toNat hxy
    simp only [BitVec.zeroExtend, BitVec.toNat_setWidth] at this
    exact BitVec.eq_of_toNat_eq (by omega)
  have bit : ∀ x y : Bool, (BitVec.ofBool x).zeroExtend 16 = (BitVec.ofBool y).zeroExtend 16 → x = y := by decide
  cases f
  cases g
  simp only [CoreRegs.mk.injEq]
  exact ⟨h .af, h .bc, h .de, h .hl, h .afAlt, h .bcAlt, h .deAlt, h .hlAlt, h .ix, h .iy, h .sp, h .pc, byte _ _ (h .i),
    byte _ _ (h .r), byte _ _ (h .im), bit _ _ (h .iff1), bit _ _ (h .iff2)⟩

/-- The registers held read as in the old file, the others as in the new one. -/
theorem regGet_keepHeld (old new : CoreRegs) (held : List CoreReg) (reg : CoreReg) :
    regGet reg (keepHeld old new held) = regGet reg (if reg ∈ held then old else new) := by
  induction held with
  | nil => rfl
  | cons first held ih =>
    by_cases h : reg = first
    · subst h
      simp [keepHeld, regGet_regSet_self _ _ (regGet_lt _ _)]
    · simp [keepHeld, regGet_regSet_ne h, ih, h]

@[simp] theorem coreSet_script (reg : CoreReg) (v : BitVec 16) (c : CoreState) : (coreSet reg v c).script = c.script := rfl
@[simp] theorem coreRedirect_script (a : Addr) (c : CoreState) : (coreRedirect a c).1.script = c.script := rfl

/-- After a setter the registers held are those held before and the one written. -/
@[simp] theorem mem_coreSet_held {reg other : CoreReg} {v : BitVec 16} {c : CoreState} :
    other ∈ (coreSet reg v c).held ↔ other = reg ∨ other ∈ c.held := by
  by_cases h : reg ∈ c.held
  · simp only [coreSet, if_pos h]
    exact ⟨.inr, fun hr => hr.elim (fun e => e ▸ h) id⟩
  · simp [coreSet, h]

/-- What a setter makes of the register file (R154). -/
theorem regGet_coreSet (reg other : CoreReg) {v : BitVec 16} (hv : v.toNat < 2 ^ reg.width) (c : CoreState) :
    regGet other (coreSet reg v c).regs =
      if other = reg then v
      else regGet other (if other ∈ c.held then c.regs else (Config.coreSetter reg v c.regs c.hidden).1) := by
  by_cases h : other = reg
  · subst h
    simp [coreSet, regGet_regSet_self _ _ hv]
  · simp [coreSet, h, regGet_regSet_ne h, regGet_keepHeld]

/-- After a prefetch the registers held are those held before but PC (R270). -/
@[simp] theorem mem_coreRedirect_held {a : Addr} {c : CoreState} {reg : CoreReg} :
    reg ∈ (coreRedirect a c).1.held ↔ reg ∈ c.held ∧ reg ≠ .pc := by
  simp [coreRedirect]

/-- What a prefetch makes of the register file (R152). -/
theorem regGet_coreRedirect (a : Addr) (reg : CoreReg) (c : CoreState) :
    regGet reg (coreRedirect a c).1.regs =
      regGet reg (if reg ∈ c.held ∧ reg ≠ .pc then c.regs else (Config.corePrefetch c.regs c.hidden a).1) := by
  simp [coreRedirect, regGet_keepHeld]

@[simp] theorem coreSetAll_script (ws : List (CoreReg × BitVec 16)) (c : CoreState) : (coreSetAll ws c).script = c.script := by
  induction ws generalizing c with
  | nil => rfl
  | cons w ws ih => simp [coreSetAll, ih]

/-- After a run of setters the registers held are those held before and the ones written. -/
@[simp] theorem mem_coreSetAll_held {ws : List (CoreReg × BitVec 16)} {c : CoreState} {reg : CoreReg} :
    reg ∈ (coreSetAll ws c).held ↔ reg ∈ ws.map (·.1) ∨ reg ∈ c.held := by
  induction ws generalizing c with
  | nil => simp [coreSetAll]
  | cons w ws ih => simp [coreSetAll, ih]; tauto

/-- A register held keeps its value through a run of setters that does not write it (R154). -/
theorem regGet_coreSetAll_of_not_mem {ws : List (CoreReg × BitVec 16)} {c : CoreState} {reg : CoreReg} (hc : reg ∈ c.held)
    (h : reg ∉ ws.map (·.1)) (hw : ∀ w ∈ ws, w.2.toNat < 2 ^ w.1.width) : regGet reg (coreSetAll ws c).regs = regGet reg c.regs := by
  induction ws generalizing c with
  | nil => rfl
  | cons w ws ih =>
    simp only [List.map_cons, List.mem_cons, not_or] at h
    rw [coreSetAll, ih (by simp [hc]) h.2 (fun x hx => hw x (by simp [hx])), regGet_coreSet _ _ (hw w (by simp)), if_neg h.1, if_pos hc]

/-- Every register a run of setters writes, once each, reads as written after it (R154, R270). -/
theorem regGet_coreSetAll {ws : List (CoreReg × BitVec 16)} (hn : (ws.map (·.1)).Nodup) (hw : ∀ w ∈ ws, w.2.toNat < 2 ^ w.1.width)
    (c : CoreState) {reg : CoreReg} {v : BitVec 16} (h : (reg, v) ∈ ws) : regGet reg (coreSetAll ws c).regs = v := by
  induction ws generalizing c with
  | nil => cases h
  | cons w ws ih =>
    have hw' : ∀ x ∈ ws, x.2.toNat < 2 ^ x.1.width := fun x hx => hw x (by simp [hx])
    simp only [List.map_cons, List.nodup_cons] at hn
    rcases List.mem_cons.1 h with rfl | h
    · rw [coreSetAll, regGet_coreSetAll_of_not_mem (by simp) hn.1 hw']
      exact (regGet_coreSet _ _ (hw (reg, v) (by simp)) _).trans (if_pos rfl)
    · exact ih hn.2 hw' _ h

/-- A snapshot header writes every register but PC, each once (R264). -/
theorem mem_snaRegisters (b : List Byte) (reg : CoreReg) : reg ∈ (snaRegisters b).map (·.1) ↔ reg ≠ .pc := by
  cases reg <;> simp [snaRegisters]

theorem snaRegisters_nodup (b : List Byte) : ((snaRegisters b).map (·.1)).Nodup := by
  simp [snaRegisters]

/-- Every value of a snapshot header has its register's width (R264). -/
theorem snaRegisters_width (b : List Byte) : ∀ w ∈ snaRegisters b, w.2.toNat < 2 ^ w.1.width := by
  have byte : ∀ x : Byte, (x.zeroExtend 16).toNat < 2 ^ 8 := by
    intro x
    rw [BitVec.zeroExtend, BitVec.toNat_setWidth]
    omega
  have bit : ∀ x : Bool, ((BitVec.ofBool x).zeroExtend 16).toNat < 2 ^ 1 := by decide
  simp only [snaRegisters, List.forall_mem_cons, CoreReg.width]
  exact ⟨byte _, BitVec.isLt _, BitVec.isLt _, BitVec.isLt _, BitVec.isLt _, BitVec.isLt _, BitVec.isLt _, BitVec.isLt _,
    BitVec.isLt _, BitVec.isLt _, bit _, bit _, byte _, BitVec.isLt _, BitVec.isLt _, byte _, fun _ h => nomatch h⟩

end Sys2Proof.Machine
end

