-- ==== Sys2Proof/Laws/Crt.lean ====
section
/-! SUPPORT. The rasterizer: what a call leaves in every cell of FB (46_crt_rasterizer.md R211, R215 to R217), and that it stays inside FB. -/
namespace Sys2Proof.Machine

/-- R211 step 1: what a call draws in. -/
theorem inGeometry_iff (c : Config) (line column : Nat) : inGeometry c line column = true ↔
    c.topBlank ≤ line ∧ line < 312 - c.bottomBlank ∧ column < c.visibleCols := by
  simp only [inGeometry, lineVisible, Bool.and_eq_true, decide_eq_true_eq, and_assoc]
  exact Iff.rfl

theorem ownRow_ne_adjRow (c : Config) (field : Bool) (line : Nat) : ownRow c field line ≠ adjRow c field line := by
  cases field <;> simp [ownRow, adjRow]

/-- One cell of each of two different rows. -/
theorem fbGet_drawCell (c : Config) {own adj : Nat} (hne : own ≠ adj) (x : Nat) (colour : Sample) (bright : Bool)
    (fb : FrameBuffer) (y' x' : Nat) :
    fbGet (drawCell c own adj x colour bright fb) y' x' =
      if x' = x ∧ y' = own then decay c (fbGet fb own x) ||| colour
      else if x' = x ∧ y' = adj then bleed c colour bright else fbGet fb y' x' := by
  unfold drawCell
  rw [fbGet_fbPut, fbGet_fbPut]
  by_cases hx : x' = x
  · by_cases hy : y' = own
    · have : y' ≠ adj := fun e => hne (by rw [← hy, e])
      simp [hx, hy, hne]
    · by_cases ha : y' = adj <;> simp [hx, hy, ha, Ne.symm hne]
  · simp [hx]

/-- R217: the first `n` cells of a call, each drawn once. -/
theorem fbGet_drawCells (c : Config) {own adj : Nat} (hne : own ≠ adj) (x0 : Nat) (colour : Nat → Sample) (bright : Bool)
    (n : Nat) (fb : FrameBuffer) (y x : Nat) :
    fbGet (drawCells c own adj x0 colour bright n fb) y x =
      if x0 ≤ x ∧ x < x0 + n then
        if y = own then decay c (fbGet fb own x) ||| colour ((x - x0) / c.pixelRepeat)
        else if y = adj then bleed c (colour ((x - x0) / c.pixelRepeat)) bright else fbGet fb y x
      else fbGet fb y x := by
  induction n generalizing y x with
  | zero =>
    simp [drawCells]
  | succ n ih =>
    unfold drawCells
    rw [fbGet_drawCell c hne, ih, ih]
    by_cases hx : x = x0 + n
    · subst hx
      simp
    · have e : (x0 ≤ x ∧ x < x0 + (n + 1)) ↔ (x0 ≤ x ∧ x < x0 + n) := by omega
      simp [hx, e]

theorem drawCells_wf {c k : Config} {own adj : Nat} (x0 : Nat) (colour : Nat → Sample) (bright : Bool) (n : Nat)
    {fb : FrameBuffer} (h : FrameBuffer.wf k fb) (ho : own < fbH k) (ha : adj < fbH k) (hx : x0 + n ≤ fbW k) :
    FrameBuffer.wf k (drawCells c own adj x0 colour bright n fb) := by
  induction n with
  | zero => exact h
  | succ n ih =>
    unfold drawCells drawCell
    exact fbPut_wf (fbPut_wf (ih (by omega)) ho (by omega) _) ha (by omega) _

/-- R217: a call never leaves FB. -/
theorem updatePixels_wf {s : State} (h : FrameBuffer.wf s.cfg s.fb) (line column : Nat) (display attr : Byte) :
    FrameBuffer.wf s.cfg (updatePixels line column display attr s).fb := by
  unfold updatePixels
  split
  · rename_i hg
    simp only [inGeometry, lineVisible, Bool.and_eq_true, decide_eq_true_eq] at hg
    obtain ⟨⟨h1, h2⟩, h3⟩ := hg
    have hv : line - s.cfg.topBlank < visLines s.cfg := by
      unfold visLines
      omega
    have hb : s.field.toNat ≤ 1 := by cases s.field <;> decide
    refine drawCells_wf _ _ _ _ h ?_ ?_ ?_
    · unfold ownRow fbH
      omega
    · unfold adjRow fbH
      omega
    · unfold fbW
      rw [← Nat.add_mul]
      exact Nat.mul_le_mul_right _ (by omega)
  · exact h

end Sys2Proof.Machine
end

