-- ==== Sys2Proof/Laws/PerInstr.lean ====
section
/-! SUPPORT. One lemma per operation: an operation of format PIN or PORT has an encoding of the size its row gives, and no other has one
(30_encoding.md R90, R106, R107; a port write carries its data byte, log 23). -/
namespace Sys2Proof.Laws.Encoding

/-- The bytes of an operation's encoding: 8 of a pin word, 2 of a port address and one more of a port write; none where the interface
invoked selects the operation. -/
def size : Instr → Option Nat
  | .memRead _ _ _ => some 8
  | .memWrite _ _ _ => some 8
  | .intAck _ _ _ => some 8
  | .ioRead _ _ _ => some 8
  | .ioWrite _ _ _ => some 8
  | .busIdle _ _ _ => some 8
  | .ulaPortWr _ _ => some 3
  | .ulaPortRd _ => some 2
  | .pinPack _ _ _ => none
  | .pinGetAddr _ => none
  | .pinSetAddr _ _ => none
  | .pinGetData _ => none
  | .pinSetData _ _ => none
  | .memRd _ => none
  | .memWr _ _ => none
  | .memLoad _ _ _ => none
  | .ioRegister _ _ => none
  | .ioRd _ => none
  | .ioWr _ _ => none
  | .coreTick _ => none
  | .corePrefetch _ => none
  | .coreIbound => none
  | .coreGetreg _ => none
  | .coreSetreg _ _ => none
  | .cpuTick => none
  | .setInt _ => none
  | .setPc _ => none
  | .ulaTick => none
  | .crtUpdate _ _ _ _ => none
  | .crtRefresh => none
  | .schedBatch => none
  | .schedRun => none
  | .loadRom _ => none
  | .loadScr _ => none
  | .loadSna _ => none
  | .ticksN _ => none
  | .lineEnd => none
  | .fieldEnd => none
  | .fieldsN _ => none
  | .outPort _ _ => none
  | .poke _ _ => none
  | .peek _ => none

/-- The encoder answers exactly for the encoded formats, with the size of the format. -/
def Statement (i : Instr) : Prop := (encode i).map List.length = size i

theorem memRead (ctl : BitVec 40) (data : Byte) (addr : Addr) : Statement (.memRead ctl data addr) := rfl
theorem memWrite (ctl : BitVec 40) (data : Byte) (addr : Addr) : Statement (.memWrite ctl data addr) := rfl
theorem intAck (ctl : BitVec 40) (data : Byte) (addr : Addr) : Statement (.intAck ctl data addr) := rfl
theorem ioRead (ctl : BitVec 40) (data : Byte) (addr : Addr) : Statement (.ioRead ctl data addr) := rfl
theorem ioWrite (ctl : BitVec 40) (data : Byte) (addr : Addr) : Statement (.ioWrite ctl data addr) := rfl
theorem busIdle (ctl : BitVec 40) (data : Byte) (addr : Addr) : Statement (.busIdle ctl data addr) := rfl
theorem ulaPortWr (addr : Addr) (value : Byte) : Statement (.ulaPortWr addr value) := rfl
theorem ulaPortRd (addr : Addr) : Statement (.ulaPortRd addr) := rfl
theorem pinPack (flags : BitVec 64) (addr : BitVec 64) (data : BitVec 64) : Statement (.pinPack flags addr data) := rfl
theorem pinGetAddr (pins : PinWord) : Statement (.pinGetAddr pins) := rfl
theorem pinSetAddr (pins : PinWord) (addr : BitVec 64) : Statement (.pinSetAddr pins addr) := rfl
theorem pinGetData (pins : PinWord) : Statement (.pinGetData pins) := rfl
theorem pinSetData (pins : PinWord) (data : BitVec 64) : Statement (.pinSetData pins data) := rfl
theorem memRd (addr : Addr) : Statement (.memRd addr) := rfl
theorem memWr (addr : Addr) (value : Byte) : Statement (.memWr addr value) := rfl
theorem memLoad (source : List Byte) (dest : Addr) (length : Nat) : Statement (.memLoad source dest length) := rfl
theorem ioRegister (mask : BitVec 16) (device : Device) : Statement (.ioRegister mask device) := rfl
theorem ioRd (addr : Addr) : Statement (.ioRd addr) := rfl
theorem ioWr (addr : Addr) (value : Byte) : Statement (.ioWr addr value) := rfl
theorem coreTick (pins : PinWord) : Statement (.coreTick pins) := rfl
theorem corePrefetch (addr : Addr) : Statement (.corePrefetch addr) := rfl
theorem coreIbound : Statement .coreIbound := rfl
theorem coreGetreg (reg : CoreReg) : Statement (.coreGetreg reg) := rfl
theorem coreSetreg (reg : CoreReg) (value : BitVec 16) : Statement (.coreSetreg reg value) := rfl
theorem cpuTick : Statement .cpuTick := rfl
theorem setInt (b : Bool) : Statement (.setInt b) := rfl
theorem setPc (addr : Addr) : Statement (.setPc addr) := rfl
theorem ulaTick : Statement .ulaTick := rfl
theorem crtUpdate (line : Nat) (column : Nat) (display : Byte) (attr : Byte) : Statement (.crtUpdate line column display attr) := rfl
theorem crtRefresh : Statement .crtRefresh := rfl
theorem schedBatch : Statement .schedBatch := rfl
theorem schedRun : Statement .schedRun := rfl
theorem loadRom (source : List Byte) : Statement (.loadRom source) := rfl
theorem loadScr (source : List Byte) : Statement (.loadScr source) := rfl
theorem loadSna (source : List Byte) : Statement (.loadSna source) := rfl
theorem ticksN (n : Nat) : Statement (.ticksN n) := rfl
theorem lineEnd : Statement .lineEnd := rfl
theorem fieldEnd : Statement .fieldEnd := rfl
theorem fieldsN (n : Nat) : Statement (.fieldsN n) := rfl
theorem outPort (port : Addr) (value : Byte) : Statement (.outPort port value) := rfl
theorem poke (addr : Addr) (value : Byte) : Statement (.poke addr value) := rfl
theorem peek (addr : Addr) : Statement (.peek addr) := rfl

end Sys2Proof.Laws.Encoding
end

