-- ==== Sys2Proof/Laws/Video.lean ====
section
/-! SUPPORT. The controller: the raster's advance in numbers (45_video_timing.md R188), the latch after a tick (R187), FB after a tick. -/
namespace Sys2Proof.Machine

/-- R183, R184: when a tick forwards a cell. -/
theorem forwards_iff (s : State) : forwards s = true ↔
    s.cfg.topBlank ≤ s.line.toNat ∧ s.line.toNat < 312 - s.cfg.bottomBlank ∧ s.lcyc.toNat < s.cfg.visibleCols * 4
      ∧ s.lcyc.toNat % 4 = 0 := by
  simp only [forwards, lineVisible, Bool.and_eq_true, decide_eq_true_eq, and_assoc]
  exact Iff.rfl

/-- R102: when the cell is one of the screen rectangle. -/
theorem inScreen_iff (s : State) : inScreen s = true ↔
    s.cfg.screenTop ≤ s.line.toNat ∧ s.line.toNat < s.cfg.screenTop + 192 ∧ s.cfg.screenLeft ≤ s.lcyc.toNat / 4
      ∧ s.lcyc.toNat / 4 < s.cfg.screenLeft + 32 := by
  simp only [inScreen, Bool.and_eq_true, decide_eq_true_eq, and_assoc]
  exact Iff.rfl

/-- R188 in numbers, for a position and a flash counter in their ranges. -/
theorem advance_raster {s : State} (hl : s.line.toNat < 312) (hc : s.lcyc.toNat < 224) :
    (advance s).lcyc.toNat = (if s.lcyc.toNat + 1 = 224 then 0 else s.lcyc.toNat + 1)
      ∧ (advance s).line.toNat =
          (if s.lcyc.toNat + 1 = 224 then (if s.line.toNat + 1 = 312 then 0 else s.line.toNat + 1) else s.line.toNat) := by
  have e1 : s.lcyc + 1 = 224 ↔ s.lcyc.toNat + 1 = 224 := by
    rw [← BitVec.toNat_inj, BitVec.toNat_add]
    simp
    omega
  have e2 : s.line + 1 = 312 ↔ s.line.toNat + 1 = 312 := by
    rw [← BitVec.toNat_inj, BitVec.toNat_add]
    simp
    omega
  unfold advance endField
  simp only [e1, e2]
  split
  · split
    · split <;> simp
    · simp only [BitVec.toNat_add]
      simp
      omega
  · simp only [BitVec.toNat_add]
    simp
    omega

/-- R188: the flags and the flash counter change only at the end of a field. -/
theorem advance_field {s : State} (hl : s.line.toNat < 312) (hc : s.lcyc.toNat < 224) (h1 : 1 ≤ s.flashCtr.toNat)
    (h2 : s.flashCtr.toNat ≤ 16) :
    if s.lcyc.toNat + 1 = 224 ∧ s.line.toNat + 1 = 312 then
      (advance s).field = !s.field ∧ (advance s).flashCtr.toNat = (if s.flashCtr.toNat = 1 then 16 else s.flashCtr.toNat - 1)
        ∧ (advance s).flashInv = (if s.flashCtr.toNat = 1 then !s.flashInv else s.flashInv)
    else (advance s).field = s.field ∧ (advance s).flashCtr = s.flashCtr ∧ (advance s).flashInv = s.flashInv := by
  have e1 : s.lcyc + 1 = 224 ↔ s.lcyc.toNat + 1 = 224 := by
    rw [← BitVec.toNat_inj, BitVec.toNat_add]
    simp
    omega
  have e2 : s.line + 1 = 312 ↔ s.line.toNat + 1 = 312 := by
    rw [← BitVec.toNat_inj, BitVec.toNat_add]
    simp
    omega
  have e3 : s.flashCtr - 1 = 0 ↔ s.flashCtr.toNat = 1 := by
    rw [← BitVec.toNat_inj, BitVec.toNat_sub]
    simp
    omega
  have e4 : s.flashCtr.toNat ≠ 1 → (s.flashCtr - 1).toNat = s.flashCtr.toNat - 1 := by
    intro h
    rw [BitVec.toNat_sub]
    simp
    omega
  unfold advance endField
  simp only [e1, e2]
  by_cases hc' : s.lcyc.toNat + 1 = 224
  · by_cases hl' : s.line.toNat + 1 = 312
    · by_cases hf : s.flashCtr.toNat = 1
      · simp only [hc', hl', e3, hf, and_self, if_true]
        exact ⟨trivial, rfl, trivial⟩
      · simp only [hc', hl', e3, hf, and_self, if_true, if_false, true_and, and_true]
        exact e4 hf
    · simp [hc', hl']
  · simp [hc']

/-- R187: the latch after step 4. -/
theorem interruptStep_latch (s : State) : (interruptStep s).intLatch =
    if s.line = 0 ∧ s.lcyc.toNat = s.cfg.intStart then true
    else if s.line = 0 ∧ s.lcyc.toNat = s.cfg.intStart + intLen then false else s.intLatch := by
  unfold interruptStep
  split
  · rfl
  · split <;> rfl

/-- The latch after a whole tick is that of its step 4, on the position the tick began with. -/
theorem controllerTick_latch (s : State) : (controllerTick s).intLatch =
    if s.line = 0 ∧ s.lcyc.toNat = s.cfg.intStart then true
    else if s.line = 0 ∧ s.lcyc.toNat = s.cfg.intStart + intLen then false else s.intLatch := by
  simp [controllerTick, controllerSteps, interruptStep_latch]

theorem forwardCell_wf {s : State} (h : FrameBuffer.wf s.cfg s.fb) : FrameBuffer.wf s.cfg (forwardCell s).fb := by
  unfold forwardCell screenCell borderCell
  split
  · split <;> exact updatePixels_wf h _ _ _ _
  · exact h

/-- The raster after a tick is the advance of the raster before it. -/
theorem controllerTick_raster (s : State) :
    (controllerTick s).lcyc = (advance s).lcyc ∧ (controllerTick s).line = (advance s).line
      ∧ (controllerTick s).field = (advance s).field ∧ (controllerTick s).flashCtr = (advance s).flashCtr
      ∧ (controllerTick s).flashInv = (advance s).flashInv := by
  have key : ∀ u v : State, u.lcyc = v.lcyc → u.line = v.line → u.field = v.field → u.flashCtr = v.flashCtr →
      u.flashInv = v.flashInv → (advance u).lcyc = (advance v).lcyc ∧ (advance u).line = (advance v).line
        ∧ (advance u).field = (advance v).field ∧ (advance u).flashCtr = (advance v).flashCtr
        ∧ (advance u).flashInv = (advance v).flashInv := by
    intro u v h1 h2 h3 h4 h5
    unfold advance endField
    simp only [h1, h2, h4]
    (repeat' split) <;> simp_all
  exact key _ _ (by simp) (by simp) (by simp) (by simp) (by simp)

/-- A tick keeps the canonical form of the devices' states (R181 step 1; the controller's own steps do not touch them). -/
theorem controllerTick_devs_wf {s : State} (h : devsWf s.devs) : devsWf (controllerTick s).devs := by
  have e : (controllerTick s).devs = (adapterTick s).devs := by simp [controllerTick]
  rw [e]
  exact adapterTick_devs_wf h

end Sys2Proof.Machine
end

