-- ==== Sys2Proof/Laws/Step.lean ====
section
/-! SUPPORT. What a step can do, said once: refuse, fault, run an issued operation, or one T-state of the run loop. -/
namespace Sys2Proof.Machine

/-- A T-state of the run loop, as one function of the state. -/
theorem step_running {s : State} (h : Running s) : step s = .next (closeTState (controllerTick s)) := by
  obtain ⟨hc, hk, he⟩ := h
  unfold step
  simp only [hc, he, hk]
  rw [exec_fetchWord]
  rfl

/-- An issued operation is run by exec. -/
theorem step_issued {s : State} (hc : configOk s.cfg = true) (he : s.ended = false) {i : Instr} {rest : List Instr}
    (hk : s.calls = i :: rest) : step s = exec i { s with calls := rest } := by
  unfold step
  simp [hc, he, hk]

/-- The inversion of step: a next state is that of an issued operation or of a T-state. -/
theorem step_next {s t : State} (h : step s = .next t) :
    (∃ i rest, s.calls = i :: rest ∧ exec i { s with calls := rest } = .next t)
      ∨ Running s ∧ t = closeTState (controllerTick s) := by
  by_cases hc : configOk s.cfg = true
  · by_cases he : s.ended = false
    · cases hk : s.calls with
      | cons i rest =>
        rw [step_issued hc he hk] at h
        exact .inl ⟨i, rest, rfl, h⟩
      | nil =>
        rw [step_running ⟨hc, hk, he⟩] at h
        exact .inr ⟨⟨hc, hk, he⟩, by simpa using h.symm⟩
    · simp [step, hc, he] at h
  · simp [step, hc] at h

/-- The frame test in the fields it writes (R242, R243). -/
theorem frameTest_eq (s : State) : frameTest s =
    { s with
      present := if s.nextFrame ≤ s.tstates then s.present ++ [s.fb] else s.present
      nextFrame := if s.nextFrame ≤ s.tstates then s.nextFrame + 69888 else s.nextFrame } := by
  unfold frameTest refresh frameT
  split <;> rfl

/-- The quit sample in the fields it writes (R247). -/
theorem sampleQuit_eq (s : State) : sampleQuit s =
    ((match s.quits with | [] => Config.quitAnswer s.free | b :: _ => b),
      { s with quits := s.quits.tail, free := if s.quits = [] then s.free + 1 else s.free }) := by
  unfold sampleQuit
  cases h : s.quits <;> simp

/-- A batch's end in the fields it writes (R240 steps 2 to 4). -/
theorem endBatch_eq (s : State) : endBatch s =
    ((match s.quits with | [] => Config.quitAnswer s.free | b :: _ => b),
      { s with
        present := if s.nextFrame ≤ s.tstates then s.present ++ [s.fb] else s.present
        nextFrame := if s.nextFrame ≤ s.tstates then s.nextFrame + 69888 else s.nextFrame
        quits := s.quits.tail
        free := if s.quits = [] then s.free + 1 else s.free }) := by
  unfold endBatch pace
  rw [sampleQuit_eq, frameTest_eq]

/-- R240: inside a batch the end of a T-state only counts. -/
theorem closeTState_inside {s : State} (h : s.batchPos + 1 < batchT s.cfg) :
    closeTState s = { s with tstates := s.tstates + 1, batchPos := s.batchPos + 1 } := by
  unfold closeTState
  simp [countTick, h]

/-- R240: the last T-state of a batch is followed by the batch's end. -/
theorem closeTState_last {s : State} (h : batchT s.cfg ≤ s.batchPos + 1) : closeTState s =
    { (endBatch { s with tstates := s.tstates + 1, batchPos := 0 }).2 with
      ended := (endBatch { s with tstates := s.tstates + 1, batchPos := 0 }).1 } := by
  have h' : ¬ s.batchPos + 1 < batchT s.cfg := by omega
  unfold closeTState
  simp [countTick, h']

/-- What the end of a T-state leaves alone (R240 to R247). -/
theorem closeTState_frame (s : State) : ∃ n fs p q f e, closeTState s =
    { s with tstates := s.tstates + 1, nextFrame := n, present := fs, batchPos := p, quits := q, free := f, ended := e } := by
  by_cases h : s.batchPos + 1 < batchT s.cfg
  · exact ⟨_, _, _, _, _, _, closeTState_inside h⟩
  · rw [closeTState_last (by omega), endBatch_eq]
    exact ⟨_, _, _, _, _, _, rfl⟩

@[simp] theorem ticks_tstates (n : Nat) (s : State) : (ticks n s).tstates = s.tstates + n := by
  induction n generalizing s with
  | zero => rfl
  | succ n ih =>
    simp only [ticks, ih, tick, countTick, controllerTick_tstates]
    omega

theorem ticks_add (m n : Nat) (s : State) : ticks (m + n) s = ticks n (ticks m s) := by
  induction m generalizing s with
  | zero => simp [ticks]
  | succ m ih => simp only [Nat.succ_add, ticks, ih]

end Sys2Proof.Machine
end

