-- ==== Sys2Proof/Tests/Slice0.lean ====
section
/-! SUPPORT. Tests on small states: well-formedness, decoding of words written out from 30_encoding.md R91 to R94, the vectors of
95_test_vectors.md, steps, and one state and operands meeting the hypotheses of each statement. -/
namespace Sys2Proof.Tests
open Sys2Proof.Machine

/-- The defaults with a batch of two T-states. -/
def config : Config := { standardConfig with batch := 1 }

/-- A core that returns the word 0 at every tick. -/
def idleCore : CoreState := { CoreState.reset with script := some [] }

/-- A core that returns `w` at its next tick. -/
def coreWith (w : PinWord) : CoreState := { CoreState.reset with script := some [w] }

/-- The reset state with an idle core and one byte of Memory, 0x22 at 0x8000 (V4). -/
def base : State := State.launch config [(0x8000, 0x22)] idleCore

/-- A field of the state an operation answers. -/
def after {α : Type} (f : State → α) (i : Instr) (s : State) : Option α :=
  match exec i s with
  | .next t => some (f t)
  | .fault _ => none
  | .refused _ => none

/-- A field of the state the next step answers. -/
def stepped {α : Type} (f : State → α) (s : State) : Option α :=
  match step s with
  | .next t => some (f t)
  | .fault _ => none
  | .refused _ => none

/-! WellFormed: for each check a term it refuses, beside one it takes. -/

theorem test_wf_memRead : (Instr.memRead 0x08 0 0).wf = false ∧ (Instr.memRead 0x0A 0 0).wf = true := by decide
theorem test_wf_memWrite : (Instr.memWrite 0x1A 0 0).wf = false ∧ (Instr.memWrite 0x10 0 0).wf = false
    ∧ (Instr.memWrite 0x12 0 0).wf = true := by decide
theorem test_wf_intAck : (Instr.intAck 0x17 0 0).wf = false ∧ (Instr.intAck 0x0F 0 0).wf = false
    ∧ (Instr.intAck 0x04 0 0).wf = false ∧ (Instr.intAck 0x05 0 0).wf = true := by decide
theorem test_wf_ioRead : (Instr.ioRead 0x0D 0 0).wf = false ∧ (Instr.ioRead 0x1E 0 0).wf = false
    ∧ (Instr.ioRead 0x08 0 0).wf = false ∧ (Instr.ioRead 0x0C 0 0).wf = true := by decide
theorem test_wf_ioWrite : (Instr.ioWrite 0x1C 0 0).wf = false ∧ (Instr.ioWrite 0x15 0 0).wf = false
    ∧ (Instr.ioWrite 0x16 0 0).wf = false ∧ (Instr.ioWrite 0x10 0 0).wf = false ∧ (Instr.ioWrite 0x14 0 0).wf = true := by decide
theorem test_wf_busIdle : (Instr.busIdle 0x14 0 0).wf = false ∧ (Instr.busIdle 0x0C 0 0).wf = false
    ∧ (Instr.busIdle 0x05 0 0).wf = false ∧ (Instr.busIdle 0x12 0 0).wf = false ∧ (Instr.busIdle 0x0A 0 0).wf = false
    ∧ (Instr.busIdle 0x02 0 0).wf = true := by decide
theorem test_wf_ulaPort : (Instr.ulaPortWr 0x00FF 0).wf = false ∧ (Instr.ulaPortRd 0x00FF).wf = false
    ∧ (Instr.ulaPortWr 0x00FE 0).wf = true ∧ (Instr.ulaPortRd 0x00FE).wf = true := by decide
theorem test_wf_memLoad : (Instr.memLoad [] 0xFFFF 2).wf = false ∧ (Instr.memLoad [] 0xFFFF 1).wf = true := by decide
theorem test_wf_coreSetreg : (Instr.coreSetreg .im 0x100).wf = false ∧ (Instr.coreSetreg .iff1 2).wf = false
    ∧ (Instr.coreSetreg .im 0xFF).wf = true ∧ (Instr.coreSetreg .af 0xFFFF).wf = true := by decide

/-! Decoding: words written out bit by bit (R91, R92: ADDR 15:0, DATA 23:16, M1 24, MREQ 25, IORQ 26, RD 27, WR 28, RFSH 34). -/

theorem test_decode_memRead : decodeTableWord 64 (2 ^ 25 + 2 ^ 27 + 2 ^ 24 + 0x11 * 2 ^ 16 + 0x8000)
    = some (.memRead 0x0B 0x11 0x8000) := by decide
theorem test_decode_memWrite : decodeTableWord 64 (2 ^ 25 + 2 ^ 28 + 0xAB * 2 ^ 16 + 0x8000)
    = some (.memWrite 0x12 0xAB 0x8000) := by decide
theorem test_decode_intAck : decodeTableWord 64 (2 ^ 24 + 2 ^ 26 + 2 ^ 28 + 0x11 * 2 ^ 16 + 0x8000)
    = some (.intAck 0x15 0x11 0x8000) := by decide
theorem test_decode_ioRead : decodeTableWord 64 (2 ^ 26 + 2 ^ 27 + 2 ^ 28 + 0x00FE) = some (.ioRead 0x1C 0 0x00FE) := by decide
theorem test_decode_ioWrite : decodeTableWord 64 (2 ^ 26 + 2 ^ 28 + 5 * 2 ^ 16 + 0x00FE) = some (.ioWrite 0x14 5 0x00FE) := by decide
theorem test_decode_busIdle : decodeTableWord 64 (2 ^ 25 + 2 ^ 34 + 2 ^ 63 + 1) = some (.busIdle 0x8000000402 0 1) := by decide
theorem test_decode_ulaPortRd : decodeTableWord 16 0xFFFE = some (.ulaPortRd 0xFFFE) ∧ decodeTableWord 16 0x00FF = none := by decide
theorem test_decode_ulaPortWr : decode [0xFE, 0x00, 0x05] = .ok (.ulaPortWr 0x00FE 5)
    ∧ decode [0xFF, 0x00, 0x05] = .error .noDevice := by decide
theorem test_decode_noFormat : decode [] = .error .noFormat ∧ decode [0, 0, 0, 0] = .error .noFormat := by decide
theorem test_encode_memWrite : encode (.memWrite 0x12 0xAB 0x8000) = some [0x00, 0x80, 0xAB, 0x12, 0, 0, 0, 0] := by decide

/-! V1, pin codec. -/

theorem test_pinPack : after (·.result) (.pinPack 0x0A000000 0x12345 0x1FF) base = some (.pins 0x0AFF2345) := by decide
theorem test_pinPack_ctrl : after (·.result) (.pinPack 0x10010000000 0 0) base = some (.pins 0x10000000) := by decide
theorem test_pinGetAddr : after (·.result) (.pinGetAddr 0x12AB8000) base = some (.addr 0x8000) := by decide
theorem test_pinSetAddr : after (·.result) (.pinSetAddr 0x7FFFFFFFF 0) base = some (.pins 0x7FFFF0000) := by decide
theorem test_pinGetData : after (·.result) (.pinGetData 0x7FF00FFFF) base = some (.byte 0) := by decide
theorem test_pinSetData : after (·.result) (.pinSetData 0x0A001234 0x5A) base = some (.pins 0x0A5A1234) := by decide

/-! V2, Memory. -/

theorem test_memRd : after (·.result) (.memRd 0x8000) base = some (.byte 0x22)
    ∧ after (·.result) (.memRd 0x8001) base = some (.byte 0) := by decide
theorem test_memWr : after (·.mem) (.memWr 0x4000 0x55) base = some [(0x4000, 0x55), (0x8000, 0x22)]
    ∧ after (·.mem) (.memWr 0x3FFF 0x55) base = some base.mem := by decide
theorem test_memWr_unlisted : after (·.mem) (.memWr 0x8000 0) base = some [] := by decide
theorem test_memLoad : after (·.mem) (.memLoad [1, 2, 3, 4] 0x0000 3) base = some [(0, 1), (1, 2), (2, 3), (0x8000, 0x22)] := by decide
theorem test_memLoad_stops : exec (.memLoad [1, 2] 0x4000 3) base = .fault .loadError
    ∧ exec (.memLoad [1, 2] 0xFFFF 2) base = .refused .loadPastEnd := ⟨rfl, rfl⟩

/-! V3, ports. -/

theorem test_covers : covers 0x8002 0x7FFD = true ∧ covers 0x8002 0x7FFF = false ∧ covers 0x00E0 0xFF1F = true
    ∧ covers 0x00E0 0xFF3F = false := by decide

/-- Two test devices whose masks overlap (V3). -/
def twoDevices : State := { base with ioreg := [(0x0001, .stub 0x11), (0x0003, .stub 0x22)] }

theorem test_ioRegister : after (·.ioreg) (.ioRegister 0x0003 (.stub 0x22)) base
    = some [(0x0001, .ula), (0x0003, .stub 0x22)] := by decide
theorem test_ioRd : after (·.result) (.ioRd 0x00FC) twoDevices = some (.byte 0x11)
    ∧ after (·.result) (.ioRd 0x00FD) twoDevices = some (.byte 0xFF) := by decide

/-- A state with one other device, at every port. -/
def otherDevice : State := { base with ioreg := [(0x0000, .ext 7)] }

/-- R140: a device may change its own state on either operation; R190 leaves BORDER to the controller. -/
theorem test_ioWr_ext : after (fun s => (devGet s.devs 7, s.border)) (.ioWr 0x00FE 0x05) otherDevice
    = some (Config.extDeviceWrite 7 0 0x00FE 0x05, 0) := by
  show some (devGet (devSet [] 7 _) 7, (0 : BitVec 3)) = _
  rw [devGet_devSet]
  rfl
theorem test_ioRd_ext : after (·.result) (.ioRd 0x00FE) { otherDevice with devs := [(7, 3)] }
    = some (.byte (Config.extDeviceRead 7 3 0 0x00FE).1) := rfl
theorem test_ioWr : after (·.border) (.ioWr 0x00FE 0xFD) base = some 5 ∧ after (·.border) (.ioWr 0x00FF 0x07) base = some 0 := by decide
theorem test_ulaPortWr : after (·.border) (.ulaPortWr 0x00FE 0x08) { base with border := 5 } = some 0 := by decide
theorem test_ulaPortRd : after (·.result) (.ulaPortRd 0x1234) { base with border := 5 } = some (.byte 0xFF) := by decide

/-! V4, the transactions, each as the word one adapter tick fetches, and as the next step. -/

theorem test_memRead : after (·.pins) .cpuTick { base with core := coreWith 0x0B118000 } = some 0x0B228000 := by decide
theorem test_memRead_priority : after (fun s => (s.pins, s.mem)) .cpuTick { base with core := coreWith 0x1A118000 }
    = some (0x1A228000, base.mem) := by decide
theorem test_memWrite : after (fun s => (s.pins, s.mem)) .cpuTick { base with core := coreWith 0x17118000 }
    = some (0x17118000, [(0x8000, 0x11)]) := by decide
theorem test_intAck : after (fun s => (s.pins, s.border)) .cpuTick { base with core := coreWith 0x15118000 }
    = some (0x15FF8000, 0) := by decide
theorem test_ioRead : after (·.pins) .cpuTick { base with core := coreWith 0x1C118000 } = some 0x1CFF8000 := by decide
theorem test_ioWrite : after (fun s => (s.pins, s.border)) .cpuTick { base with core := coreWith 0x14118000 }
    = some (0x14118000, 1) := by decide
theorem test_busIdle : after (fun s => (s.pins, s.mem)) .cpuTick { base with core := coreWith 0x402118000 }
    = some (0x402118000, base.mem) := by decide
theorem test_merge : mergeInt 0x0A7E1234 true = 0x4A7E1234 ∧ mergeInt 0x4A7E1234 false = 0x0A7E1234 := by decide
theorem test_setInt : after (·.intLatch) (.setInt true) base = some true := by decide
theorem test_setPc : after (·.pins) (.setPc 0x0072) base = some (Config.corePrefetch base.core.regs 0 0x0072).2.2 := rfl

/-! The core's contract. -/

theorem test_coreTick : after (fun s => (s.result, s.core.script, s.core.held)) (.coreTick 7)
    { base with core := { coreWith 9 with held := [.sp] } } = some (.pins 9, some [], []) := by decide
/-- A core whose SP and PC were written after its last tick. -/
def heldCore : CoreState := { idleCore with regs := { idleCore.regs with sp := 0xFF58, pc := 0x1234 }, held := [.sp, .pc] }

/-- R152 leaves PINS; R154, R270: SP, written with no tick in between, reads as written. -/
theorem test_corePrefetch : after (fun s => (s.pins, s.core.regs.sp, s.core.held)) (.corePrefetch 0x0072)
    { base with pins := 3, core := heldCore } = some (3, 0xFF58, [.sp]) := by decide
theorem test_coreIbound : after (·.result) .coreIbound base = some (.bit (Config.coreBoundary base.core.regs 0)) := rfl
/-- R154's example, and its law through a second write. -/
theorem test_coreSetreg : after (·.core.regs.sp) (.coreSetreg .sp 0xFF58) base = some 0xFF58
    ∧ after (fun s => (s.core.regs.iff2, s.core.regs.sp, s.core.held)) (.coreSetreg .iff2 1) { base with core := heldCore }
      = some (true, 0xFF58, [.iff2, .sp, .pc]) := by decide
theorem test_coreGetreg : after (·.result) (.coreGetreg .r) { base with core := { idleCore with regs := { idleCore.regs with r := 0xFF } } }
    = some (.value 0x00FF) := by decide

/-! V5, the controller. -/

/-- A position of the raster. -/
def at' (line : BitVec 9) (lcyc : BitVec 8) : State := { base with line := line, lcyc := lcyc }

theorem test_displayAddr : displayAddr 0 0 = 0x4000 ∧ displayAddr 9 5 = 0x4125 ∧ displayAddr 100 16 = 0x4C90
    ∧ displayAddr 191 31 = 0x57FF := by decide
theorem test_attrAddr : attrAddr 63 31 = 0x58FF ∧ attrAddr 65 1 = 0x5901 ∧ attrAddr 191 31 = 0x5AFF := by decide
theorem test_ulaTick_wrap : after (fun s => (s.line, s.lcyc, s.field, s.flashCtr)) .ulaTick (at' 311 223)
    = some (0, 0, true, 15) := by decide
theorem test_ulaTick_interrupt : after (·.intLatch) .ulaTick (at' 0 0) = some true
    ∧ after (·.intLatch) .ulaTick { at' 0 32 with intLatch := true } = some false := by decide
theorem test_forwards : forwards (at' 15 0) = false ∧ forwards (at' 16 172) = true ∧ forwards (at' 16 176) = false
    ∧ forwards (at' 303 172) = true ∧ forwards (at' 304 0) = false := by decide
theorem test_inScreen : inScreen (at' 63 24) = false ∧ inScreen (at' 64 20) = false ∧ inScreen (at' 64 24) = true
    ∧ inScreen (at' 255 148) = true ∧ inScreen (at' 64 152) = false ∧ inScreen (at' 256 24) = false := by decide

/-! V6, the rasterizer. -/

theorem test_palette : palette config 1 false = 0x0000C0FF ∧ palette config 2 true = 0xFF0000FF ∧ palette config 4 false = 0x00C000FF := by
  decide
theorem test_decay_bleed : decay config 0xC0C0C0FF = 0x6060607F ∧ bleed config 0x0000C0FF false = 0x000030FF
    ∧ bleed config 0xFFFFFFFF true = 0x7F7F7FFF := by decide
theorem test_crtUpdate : after (fun s => (fbGet s.fb 96 48, fbGet s.fb 96 55, fbGet s.fb 97 48, fbGet s.fb 97 56))
    (.crtUpdate 64 6 0x80 0x97) base = some (0xC0C0C0FF, 0xC00000FF, 0x303030FF, 0) := by decide +kernel
theorem test_crtUpdate_flash : after (fun s => (fbGet s.fb 96 48, fbGet s.fb 97 49)) (.crtUpdate 64 6 0x80 0x97)
    { base with flashInv := true } = some (0xC00000FF, 0x303030FF) := by decide +kernel
theorem test_crtUpdate_outside : after (·.fb) (.crtUpdate 304 0 0xFF 0x07) base = some []
    ∧ after (·.fb) (.crtUpdate 16 44 0xFF 0x07) base = some [] := by decide
theorem test_crtRefresh : after (·.present) .crtRefresh { base with fb := [(1, [(2, 3)])] } = some [[(1, [(2, 3)])]] := by decide

/-! V7, the scheduler, from the T-state before a frame boundary. -/

/-- One T-state of batch two is left when TSTATES reaches 69888; the host then answers `q`. -/
def lastTick (q : Bool) : State := { at' 311 223 with tstates := 69887, batchPos := 1, quits := [q] }

theorem test_schedBatch : after (fun s => (s.tstates, s.nextFrame, s.present.length, s.result)) .schedBatch
    { at' 311 222 with tstates := 69886, quits := [true] } = some (69888, 139776, 1, .bit true) := by decide
theorem test_schedRun : after (fun s => (s.ended, s.calls)) .schedRun { at' 304 0 with quits := [false] } = some (false, [.schedRun])
    ∧ after (fun s => (s.ended, s.calls)) .schedRun { at' 304 0 with quits := [true] } = some (true, []) := by decide

/-! V8, host loads. -/

theorem test_loadRom : exec (.loadRom []) base = .fault .loadError := rfl
theorem test_loadScr : exec (.loadScr [1, 2]) base = .fault .loadError := rfl
theorem test_loadSna_short : exec (.loadSna [0x3F]) base = .fault .loadError := rfl

/-- The header of V8.3. -/
def header : List Byte :=
  [0x3F, 0x58, 0x27, 0x9B, 0x36, 0x21, 0x17, 0x44, 0x00, 0xB6, 0x5C, 0x92, 0x5C, 0x21, 0x0B, 0x3A, 0x5C, 0xD4, 0x03, 0x04, 0x2A, 0x54,
   0x5C, 0x4A, 0xFF, 0x01, 0xFD]

/-- The registers V8.3 expects, in the order the header is written. -/
theorem test_loadSna_registers :
    ((snaRegisters header).map (·.1)).map (fun reg => regGet reg (coreSetAll (snaRegisters header) idleCore).regs)
    = [0x3F, 0x2758, 0x369B, 0x1721, 0x0044, 0x5CB6, 0x5C92, 0x0B21, 0x5C3A, 0x03D4, 1, 1, 0x2A, 0x5C54, 0xFF4A, 1] := by
  decide +kernel

/-! R108, the stimulus notation. -/

theorem test_ticksN : after (fun s => (s.tstates, s.lcyc)) (.ticksN 3) (at' 304 5) = some (3, 8) := by decide
theorem test_lineEnd : after (fun s => (s.tstates, s.line, s.lcyc)) .lineEnd (at' 304 222) = some (2, 305, 0) := by decide
theorem test_fieldEnd : after (fun s => (s.tstates, s.line, s.lcyc, s.field)) .fieldEnd (at' 311 222) = some (2, 0, 0, true) := by decide
theorem test_fieldsN : after (·.tstates) (.fieldsN 0) base = some 0 := by decide
theorem test_outPort : after (fun s => (s.border, s.pins)) (.outPort 0x00FE 5) base = some (5, 0x140500FE) := by decide
/-- OUT is a tick of the core: R154's law ends, the script and the registers stay (log 4, 26). -/
theorem test_outPort_core : after (fun s => s.core) (.outPort 0x00FE 5) { base with core := heldCore }
    = some { heldCore with held := [] } := by decide
theorem test_poke : after (fun s => (memGet s.mem 0x8000, s.pins)) (.poke 0x8000 0xAB) base = some (0xAB, 0x12AB8000) := by decide
theorem test_peek : after (fun s => (s.result, s.pins)) (.peek 0x8000) base = some (.byte 0x22, 0x0A228000) := by decide

/-! Steps. -/

theorem test_step_word : stepped (fun s => (s.pins, s.mem, s.lcyc, s.tstates)) (base.withFetchWord 64 0x12118000)
    = some (0x12118000, [(0x8000, 0x11)], 1, 1) := by decide
theorem test_step_port : stepped (·.result) (base.withFetchWord 16 0x00FE) = some (.byte 0xFF) := by decide
theorem test_step_call : stepped (fun s => (s.border, s.calls)) { base with calls := [.outPort 0x00FE 5, .crtRefresh] }
    = some (5, [.crtRefresh]) := by decide
theorem test_step_batchEnd : stepped (fun s => (s.tstates, s.nextFrame, s.present.length, s.batchPos, s.ended)) (lastTick true)
    = some (69888, 139776, 1, 0, true) := by decide
theorem test_step_stops : step { base with ended := true } = .fault .runEnded
    ∧ step { base with cfg := { config with pixelRepeat := 3 } } = .refused .configOutside := ⟨rfl, rfl⟩

/-! Witnesses: a state and operands that meet the hypotheses of each statement that has some, one for each clause. -/

theorem witness_MemoryLaws : ((0x4000 : Addr) = 0x4000 ∧ 0x4000 ≤ (0x4000 : Addr).toNat)
    ∧ ((0x3FFF : Addr) = 0x3FFF ∧ (0x3FFF : Addr).toNat < 0x4000) ∧ (0x4000 : Addr) ≠ 0x3FFF := by decide

theorem witness_LoadImageCopiesOrStops : ([1, 2] : List Byte).length < 3
    ∧ (2 ≤ ([1, 2] : List Byte).length ∧ 65536 < (0xFFFF : Addr).toNat + 2)
    ∧ (2 ≤ ([1, 2] : List Byte).length ∧ (0xFFFE : Addr).toNat + 2 ≤ 65536) := by decide

theorem witness_CoverageRule : base.ioreg = [(0x0001, .ula)] ∧ (0x00FE : Addr).toNat % 2 = 0 ∧ (0x00FF : Addr).toNat % 2 = 1 := by decide

theorem witness_IoRegisterAppends : base.cfg.dispatch = .registration ∧ (0x0001 : BitVec 16) ∈ base.ioreg.map (·.1) := by decide

theorem witness_IoRdAsksFirstCovering : (twoDevices.cfg.dispatch = .registration ∨ twoDevices.ioreg.length ≤ 1)
    ∧ twoDevices.ioreg.find? (fun e => covers e.1 0x00FD) = none
    ∧ twoDevices.ioreg.find? (fun e => covers e.1 0x00FC) = some (0x0001, .stub 0x11)
    ∧ base.ioreg.find? (fun e => covers e.1 0x00FE) = some (0x0001, .ula)
    ∧ otherDevice.ioreg.find? (fun e => covers e.1 0x1234) = some (0x0000, .ext 7) := by decide

theorem witness_IoWrWritesFirstCovering : ({ base with ioreg := [(0x8000, .ext 0)] } : State).ioreg.length ≤ 1
    ∧ ({ base with ioreg := [(0x8000, .ext 0)] } : State).ioreg.find? (fun e => covers e.1 0x7FFF) = some (0x8000, .ext 0)
    ∧ base.ioreg.find? (fun e => covers e.1 0x00FF) = none := by decide

theorem witness_CoreTickAdvancesCore : CoreState.reset.script = none ∧ (coreWith 9).script = some [9] ∧ idleCore.script = some [] := by decide

theorem witness_CoreSetThenGet : (0xFFFF : BitVec 16).toNat < 2 ^ CoreReg.width .pc ∧ (0x00FF : BitVec 16).toNat < 2 ^ CoreReg.width .im
    ∧ (1 : BitVec 16).toNat < 2 ^ CoreReg.width .iff1 ∧ CoreReg.af ≠ .afAlt
    ∧ CoreReg.sp ∈ heldCore.held ∧ CoreReg.af ∉ heldCore.held := by decide

theorem witness_MemReadTransaction : (0x7FF118000#64 &&& 0xA000000#64) = 0xA000000#64 := by decide
theorem witness_MemWriteTransaction : (0x17118000#64 &&& 0x12000000#64) = 0x12000000#64
    ∧ (0x17118000#64 &&& 0xA000000#64) ≠ 0xA000000#64 := by decide
theorem witness_IntAckTransaction : (0x15118000#64 &&& 0x5000000#64) = 0x5000000#64
    ∧ (0x15118000#64 &&& 0xA000000#64) ≠ 0xA000000#64 ∧ (0x15118000#64 &&& 0x12000000#64) ≠ 0x12000000#64 := by decide
theorem witness_IoReadTransaction : (0x1C118000#64 &&& 0xC000000#64) = 0xC000000#64 ∧ (0x1C118000#64 &&& 0xA000000#64) ≠ 0xA000000#64
    ∧ (0x1C118000#64 &&& 0x12000000#64) ≠ 0x12000000#64 ∧ (0x1C118000#64 &&& 0x5000000#64) ≠ 0x5000000#64
    ∧ ∀ e ∈ base.ioreg, e.2 = .ula := by decide
theorem witness_IoWriteTransaction : (0x14118000#64 &&& 0x14000000#64) = 0x14000000#64
    ∧ (0x14118000#64 &&& 0xA000000#64) ≠ 0xA000000#64 ∧ (0x14118000#64 &&& 0x12000000#64) ≠ 0x12000000#64
    ∧ (0x14118000#64 &&& 0x5000000#64) ≠ 0x5000000#64 ∧ (0x14118000#64 &&& 0xC000000#64) ≠ 0xC000000#64
    ∧ base.ioreg = [(0x0001, .ula)] := by decide
theorem witness_BusIdleTransaction : (0x402118000#64 &&& 0xA000000#64) ≠ 0xA000000#64
    ∧ (0x402118000#64 &&& 0x12000000#64) ≠ 0x12000000#64 ∧ (0x402118000#64 &&& 0x5000000#64) ≠ 0x5000000#64
    ∧ (0x402118000#64 &&& 0xC000000#64) ≠ 0xC000000#64 ∧ (0x402118000#64 &&& 0x14000000#64) ≠ 0x14000000#64 := by decide

theorem witness_ControllerTickForwardsCell : (forwards (at' 255 148) = true ∧ inScreen (at' 255 148) = true)
    ∧ (forwards (at' 16 172) = true ∧ inScreen (at' 16 172) = false) ∧ forwards (at' 64 25) = false := by decide

theorem witness_ControllerTickTimesInterrupt : ((at' 0 0).line = 0 ∧ (at' 0 0).lcyc.toNat = base.cfg.intStart)
    ∧ ((at' 0 32).line = 0 ∧ (at' 0 32).lcyc.toNat = base.cfg.intStart + 32)
    ∧ ¬((at' 0 33).line = 0 ∧ ((at' 0 33).lcyc.toNat = base.cfg.intStart ∨ (at' 0 33).lcyc.toNat = base.cfg.intStart + 32)) := by decide

theorem witness_ControllerTickAdvancesRaster : (at' 311 223).line.toNat < 312 ∧ (at' 311 223).lcyc.toNat < 224
    ∧ 1 ≤ (at' 311 223).flashCtr.toNat ∧ (at' 311 223).flashCtr.toNat ≤ 16
    ∧ 1 ≤ ({ at' 311 223 with flashCtr := 1 } : State).flashCtr.toNat := by decide

theorem witness_DisplayAddressBijection : (191 < 192 ∧ 31 < 32) ∧ 0x4000 ≤ 0x57FF ∧ 0x57FF < 0x5800 := by decide
theorem witness_AttributeAddressLinear : 191 < 192 ∧ 31 < 32 := by decide

theorem witness_CrtUpdateDrawsEightPixels :
    base.cfg.topBlank ≤ 303 ∧ 303 < 312 - base.cfg.bottomBlank ∧ 43 < base.cfg.visibleCols := by decide
theorem witness_CrtUpdateIgnoresOutside : ¬(base.cfg.topBlank ≤ 304 ∧ 304 < 312 - base.cfg.bottomBlank ∧ 43 < base.cfg.visibleCols)
    ∧ ¬(base.cfg.topBlank ≤ 16 ∧ 16 < 312 - base.cfg.bottomBlank ∧ 44 < base.cfg.visibleCols) := by decide
theorem witness_ColourLanesIndependent : (0 < 4) ∧ (1 ≤ 3 ∧ 3 < 4) := by decide

theorem witness_BatchKeepsCadence : Cadence (lastTick true) := ⟨rfl, rfl⟩
theorem witness_StepsMakeOneBatch : Running base ∧ base.batchPos = 0 := ⟨⟨rfl, rfl, rfl⟩, rfl⟩

theorem witness_LoadRomAndScreenCopyImages : ([] : List Byte).length < 16384 ∧ 16384 ≤ (List.replicate 16384 (0 : Byte)).length
    ∧ ([] : List Byte).length < 6912 ∧ 6912 ≤ (List.replicate 6912 (0 : Byte)).length :=
  ⟨by decide, List.length_replicate.ge, by decide, List.length_replicate.ge⟩
theorem witness_LoadSnaRestoresMachine : header.length < 27 + 49152 ∧ 27 + 49152 ≤ (List.replicate 49179 (0 : Byte)).length
    ∧ CoreReg.sp ≠ .pc := ⟨by decide, List.length_replicate.ge, by decide⟩

theorem witness_LineAndFieldEndReachBoundary : (at' 311 223).line.toNat < 312 ∧ (at' 311 223).lcyc.toNat < 224 := by decide

theorem witness_StepRunsFetchedTransaction : Running base ∧ base.batchPos + 1 < batchT base.cfg ∧ Running (lastTick false)
    ∧ batchT (lastTick false).cfg ≤ (lastTick false).batchPos + 1 := ⟨⟨rfl, rfl, rfl⟩, by decide, ⟨rfl, rfl, rfl⟩, by decide⟩
theorem witness_StepRunsIssuedOperation : configOk base.cfg = true ∧ base.ended = false
    ∧ ({ base with calls := [.peek 0] } : State).calls = .peek 0 :: [] := ⟨rfl, rfl, rfl⟩
theorem witness_StepStopsOnlyForNamedReasons : configOk { config with intStart := 192 } = false
    ∧ (configOk { config with intStart := 191 } = true ∧ ({ base with ended := true } : State).ended = true) ∧ Running base
    ∧ (configOk base.cfg = true ∧ base.ended = false ∧ ({ base with calls := [.loadRom []] } : State).calls = .loadRom [] :: []) :=
  ⟨rfl, ⟨rfl, rfl⟩, ⟨rfl, rfl, rfl⟩, rfl, rfl, rfl⟩
theorem test_step_load_stops : step { base with calls := [.loadRom []] } = .fault .loadError
    ∧ step { base with calls := [.memLoad [1, 2] 0xFFFF 2] } = .refused .loadPastEnd := ⟨rfl, rfl⟩
theorem witness_PlacedWordRunsNext : configOk base.cfg = true ∧ 2 ^ 64 - 1 < 2 ^ 64 := ⟨rfl, by decide⟩

theorem witness_DecodeOfEncode : (Instr.busIdle 0x8000000402 0xFF 0xFFFF).wf = true
    ∧ encode (.busIdle 0x8000000402 0xFF 0xFFFF) = some [0xFF, 0xFF, 0xFF, 0x02, 0x04, 0, 0, 0x80] := by decide

/-- The state before a frame boundary meets the invariants and a step leaves it. -/
theorem witness_StepKeepsInvariant : Inv (lastTick false) ∧ ∃ t, step (lastTick false) = .next t := by
  refine ⟨⟨by decide, by decide, by decide, by decide, by decide, ⟨⟨List.Pairwise.nil, ?_⟩, ?_⟩, ?_, by decide, ?_⟩, _, rfl⟩
  · exact fun _ h => nomatch h
  · exact fun _ h => nomatch h
  · exact fun _ h => nomatch h
  · exact ⟨0, List.Pairwise.nil, fun _ h => nomatch h⟩
theorem witness_StepKeepsPhase : Running (lastTick false) ∧ Phase (lastTick false) ∧ ∃ t, step (lastTick false) = .next t :=
  ⟨⟨rfl, rfl, rfl⟩, ⟨by decide, by decide, by decide, by decide, by decide⟩, _, rfl⟩
theorem witness_FieldsAdvanceFlash : Phase (lastTick false) ∧ 16 = 16 ∧ (lastTick false).tstates % 1118208 < 69888 ∧ 15 < 16 :=
  ⟨⟨by decide, by decide, by decide, by decide, by decide⟩, rfl, by decide, by decide⟩
theorem witness_StepKeepsLatchWindow : Running (lastTick false) ∧ Inv (lastTick false) ∧ LatchWindow (lastTick false)
    ∧ (∃ t, step (lastTick false) = .next t) ∧ LatchWindow { at' 0 32 with intLatch := true } :=
  ⟨⟨rfl, rfl, rfl⟩, witness_StepKeepsInvariant.1, rfl, ⟨_, rfl⟩, rfl⟩
theorem witness_StepKeepsRunCadence : Running (lastTick false) ∧ RunCadence (lastTick false) ∧ ∃ t, step (lastTick false) = .next t :=
  ⟨⟨rfl, rfl, rfl⟩, ⟨by decide, by decide, rfl, rfl⟩, _, rfl⟩

theorem witness_OnlyLoadsWriteRom : isLoad (.poke 0x3FFF 1) = false ∧ (∃ t, exec (.poke 0x3FFF 1) base = .next t)
    ∧ (0x3FFF : Addr).toNat < 0x4000 := ⟨rfl, ⟨_, rfl⟩, by decide⟩
theorem witness_StepStoresOnlyFetchedWrite : Running (base.withFetchWord 64 0x12118000)
    ∧ (∃ t, step (base.withFetchWord 64 0x12118000) = .next t)
    ∧ decodePin (fetchWord (base.withFetchWord 64 0x12118000)).1 = .memWrite 0x12 0x11 0x8000 :=
  ⟨⟨rfl, rfl, rfl⟩, ⟨_, rfl⟩, by decide⟩
theorem witness_BorderChangesOnlyByPortWrite : Running (base.withFetchWord 64 0x140500FE)
    ∧ ∃ t, step (base.withFetchWord 64 0x140500FE) = .next t := ⟨⟨rfl, rfl, rfl⟩, _, rfl⟩
theorem witness_ConfigurationConstant : ∃ t, exec (.memWr 0x8000 1) base = .next t := ⟨_, rfl⟩

end Sys2Proof.Tests
end

/-! SUPPORT. The state family (10_state.md R29, R42, R47): every operation keeps the invariant and the configuration, a T-state
writes BORDER only through the controller, and the machine just launched meets every invariant. -/
namespace Sys2Proof.Machine

/-! What a bus access keeps (42_io_registry.md R142, R143; 44_cpu_adapter.md R160 to R172). -/

/-- Where only Memory and the devices' states may differ among what the invariant speaks of, it holds once these are canonical. -/
theorem Inv.of_bus {s t : State} (h : Inv s) (mem : Memory.wf t.mem) (devs : devsWf t.devs)
    (frame : t.cfg = s.cfg ∧ t.line = s.line ∧ t.lcyc = s.lcyc ∧ t.flashCtr = s.flashCtr ∧ t.nextFrame = s.nextFrame
      ∧ t.fb = s.fb ∧ t.present = s.present ∧ t.batchPos = s.batchPos) : Inv t := by
  obtain ⟨hcfg, hline, hlcyc, hflash, hnext, hfb, hpresent, hpos⟩ := frame
  exact
    { mem, devs
      line := hline ▸ h.line
      lcyc := hlcyc ▸ h.lcyc
      flashCtr := hflash ▸ h.flashCtr
      nextFrame := hnext ▸ h.nextFrame
      fb := by rw [hcfg, hfb]; exact h.fb
      present := by rw [hcfg, hpresent]; exact h.present
      batchPos := by rw [hcfg, hpos]; exact h.batchPos }

theorem portRead_inv {s : State} (h : Inv s) (a : Addr) : Inv (portRead a s).2 :=
  h.of_bus (by rw [portRead_mem]; exact h.mem) (portRead_devs_wf h.devs a) (by simp)

theorem portWrite_inv {s : State} (h : Inv s) (a : Addr) (v : Byte) : Inv (portWrite a v s) :=
  h.of_bus (by rw [portWrite_mem]; exact h.mem) (portWrite_devs_wf h.devs a v) (by simp)

theorem resolve_inv {s : State} (h : Inv s) (p : PinWord) : Inv (resolve p s) :=
  h.of_bus (resolve_mem_wf h.mem p) (resolve_devs_wf h.devs p) (by simp)

theorem adapterTick_inv {s : State} (h : Inv s) : Inv (adapterTick s) :=
  have fetched : Inv (fetchWord s).2 := { h with }
  resolve_inv fetched _

theorem scriptedTick_inv {s : State} (h : Inv s) (flags : PinWord) (addr : Addr) (data : Byte) :
    Inv (scriptedTick flags addr data s) := by
  have ticked : Inv { s with core := { s.core with held := [] } } := { h with }
  rw [scriptedTick_eq]
  exact resolve_inv ticked _

/-! What the controller and the rasterizer keep (45_video_timing.md R181, 46_crt_rasterizer.md R211). -/

theorem updatePixels_inv {s : State} (h : Inv s) (line column : Nat) (display attr : Byte) :
    Inv (updatePixels line column display attr s) := by
  have hfb := updatePixels_wf h.fb line column display attr
  unfold updatePixels at hfb ⊢
  split_ifs at hfb ⊢
  · exact { h with fb := hfb }
  · exact h

theorem forwardCell_inv {s : State} (h : Inv s) : Inv (forwardCell s) := by
  unfold forwardCell
  split_ifs
  · exact updatePixels_inv h _ _ _ _
  · exact updatePixels_inv h _ _ _ _
  · exact h

theorem interruptStep_inv {s : State} (h : Inv s) : Inv (interruptStep s) := by
  unfold interruptStep
  split_ifs
  · exact { h with }
  · exact { h with }
  · exact h

/-- R188, R42: the raster wraps, and the flash counter reloads, before it leaves its range. -/
theorem advance_inv {s : State} (h : Inv s) : Inv (advance s) := by
  obtain ⟨hlcyc, hline⟩ := advance_raster h.line h.lcyc
  have hfield := advance_field h.line h.lcyc h.flashCtr.1 h.flashCtr.2
  exact
    { mem := by rw [advance_mem]; exact h.mem
      line := by
        have := h.line
        rw [hline]
        split_ifs <;> omega
      lcyc := by
        have := h.lcyc
        rw [hlcyc]
        split_ifs <;> omega
      flashCtr := by
        have := h.flashCtr
        split at hfield
        · rw [hfield.2.1]
          split_ifs <;> omega
        · rw [hfield.2.1]
          exact h.flashCtr
      nextFrame := by rw [advance_nextFrame]; exact h.nextFrame
      fb := by rw [advance_cfg, advance_fb]; exact h.fb
      present := by rw [advance_cfg, advance_present]; exact h.present
      batchPos := by rw [advance_cfg, advance_batchPos]; exact h.batchPos
      devs := by rw [advance_devs]; exact h.devs }

theorem controllerTick_inv {s : State} (h : Inv s) : Inv (controllerTick s) :=
  advance_inv (interruptStep_inv (forwardCell_inv (adapterTick_inv h)))

/-! What the scheduler keeps (47_scheduler.md R240 to R248). -/

theorem countTick_inv {s : State} (h : Inv s) : Inv (countTick s) := { h with }

theorem ticks_inv {s : State} (h : Inv s) (n : Nat) : Inv (ticks n s) := by
  induction n generalizing s with
  | zero => exact h
  | succ n ih => exact ih (countTick_inv (controllerTick_inv h))

/-- R221: the frame handed over is FB, and FB is inside its bounds. -/
theorem refresh_inv {s : State} (h : Inv s) : Inv (refresh s) where
  __ := h
  present := by
    intro f hf
    rcases List.mem_append.1 hf with hold | hnew
    · exact h.present f hold
    · rw [List.mem_singleton.1 hnew]
      exact h.fb

/-- R242, R243: the boundary moves by a whole frame. -/
theorem frameTest_inv {s : State} (h : Inv s) : Inv (frameTest s) := by
  unfold frameTest
  split_ifs
  · obtain ⟨hpos, hmultiple⟩ := h.nextFrame
    have moved : 0 < s.nextFrame + 69888 ∧ (s.nextFrame + 69888) % 69888 = 0 := by omega
    exact { refresh_inv h with nextFrame := moved }
  · exact h

theorem endBatch_inv {s : State} (h : Inv s) : Inv (endBatch s).2 := by
  unfold endBatch
  rw [sampleQuit_eq]
  exact { frameTest_inv h with }

theorem runBatch_inv {s : State} (h : Inv s) : Inv (runBatch s).2 := endBatch_inv (ticks_inv h _)

theorem runLoop_inv {s : State} (h : Inv s) : Inv (runLoop s) := by
  have batch := runBatch_inv h
  unfold runLoop
  dsimp only
  split_ifs
  · exact { batch with }
  · exact { batch with }

/-- R240: the batch position goes back to 0 with the batch's last T-state. -/
theorem closeTState_inv {s : State} (h : Inv s) : Inv (closeTState s) := by
  by_cases hinside : s.batchPos + 1 < batchT s.cfg
  · rw [closeTState_inside hinside]
    exact { h with batchPos := hinside }
  · have restarted : Inv { s with tstates := s.tstates + 1, batchPos := 0 } := { h with batchPos := Nat.succ_pos _ }
    rw [closeTState_last (by omega)]
    exact { endBatch_inv restarted with }

/-! The host's loads (41_memory_ops.md R132, 48_host_interface.md R261 to R264): what they leave when they complete. -/

theorem loadImage_next {source : List Byte} {dest : Addr} {length : Nat} {s t : State}
    (h : loadImage source dest length s = .next t) :
    length ≤ source.length ∧ dest.toNat + length ≤ memSize
      ∧ t = { s with mem := memSplice s.mem dest.toNat (source.take length) } := by
  unfold loadImage at h
  split_ifs at h
  · cases h
  · cases h
    exact ⟨by omega, by omega, rfl⟩

theorem execLoadSna_next {b : List Byte} {s t : State} (h : execLoadSna b s = .next t) : t = restoreSnapshot b s := by
  unfold execLoadSna at h
  split_ifs at h
  · cases h
  · cases h
    rfl

/-- R132: a load that completes stays in Memory. -/
theorem loadImage_inv {source : List Byte} {dest : Addr} {length : Nat} {s t : State} (hs : Inv s)
    (h : loadImage source dest length s = .next t) : Inv t := by
  obtain ⟨hlen, hend, rfl⟩ := loadImage_next h
  exact { hs with mem := memSplice_wf hs.mem _ _ (by rw [List.length_take]; omega) }

/-- R264: the RAM of a snapshot ends where Memory does, at 0x4000 + 49152. -/
theorem restoreSnapshot_inv {s : State} (h : Inv s) (b : List Byte) : Inv (restoreSnapshot b s) := by
  have ram : 0x4000 + ((b.drop snaHeaderLen).take snaRamLen).length ≤ memSize := by
    rw [List.length_take]
    unfold snaRamLen memSize
    omega
  exact { h with mem := memSplice_wf h.mem _ _ ram }

/-! The invariant (R42). -/

/-- R42: every operation that completes keeps the invariant. -/
theorem exec_inv {i : Instr} {s t : State} (hs : Inv s) (h : exec i s = .next t) : Inv t := by
  cases i
  case memLoad | loadRom | loadScr => exact loadImage_inv hs h
  case loadSna b =>
    rw [execLoadSna_next h]
    exact restoreSnapshot_inv hs b
  all_goals obtain rfl := Host.Outcome.next.inj h
  case memWrite | memWr => exact { hs with mem := memPut_wf hs.mem _ _ }
  case ioRead | ioRd => exact { portRead_inv hs _ with }
  case ioWrite | ioWr => exact { portWrite_inv hs _ _ with }
  case cpuTick => exact adapterTick_inv hs
  case ulaTick => exact controllerTick_inv hs
  case crtUpdate => exact updatePixels_inv hs _ _ _ _
  case crtRefresh => exact refresh_inv hs
  case schedBatch => exact { runBatch_inv hs with }
  case schedRun => exact runLoop_inv hs
  case ticksN | lineEnd | fieldEnd | fieldsN => exact ticks_inv hs _
  case outPort | poke => exact scriptedTick_inv hs _ _ _
  case peek a => exact { scriptedTick_inv hs _ a 0 with }
  -- Every other operation writes no component the invariant speaks of.
  all_goals exact { hs with }

/-- Settles O51: a step is an issued operation, which keeps the invariant whatever it is, or a tick of the controller and the end of the
T-state, each of which keeps it. -/
theorem stepKeepsInvariant : Obligations.StepKeepsInvariant := by
  intro s t hs h
  rcases step_next h with ⟨i, rest, _, hexec⟩ | ⟨_, htick⟩
  · have issued : Inv { s with calls := rest } := { hs with }
    exact exec_inv issued hexec
  · rw [htick]
    exact closeTState_inv (controllerTick_inv hs)

/-! The configuration (R47). -/

@[simp] theorem runLoop_cfg (s : State) : (runLoop s).cfg = s.cfg := by
  unfold runLoop
  dsimp only
  split_ifs
  · exact runBatch_cfg s
  · exact runBatch_cfg s

@[simp] theorem scriptedTick_cfg (flags : PinWord) (addr : Addr) (data : Byte) (s : State) :
    (scriptedTick flags addr data s).cfg = s.cfg := by
  rw [scriptedTick_eq, resolve_cfg]

theorem exec_cfg {i : Instr} {s t : State} (h : exec i s = .next t) : t.cfg = s.cfg := by
  cases i
  case memLoad | loadRom | loadScr =>
    obtain ⟨_, _, rfl⟩ := loadImage_next h
    rfl
  case loadSna =>
    rw [execLoadSna_next h]
    rfl
  all_goals obtain rfl := Host.Outcome.next.inj h
  case ioRead | ioRd => exact portRead_cfg _ s
  case ioWrite | ioWr => exact portWrite_cfg _ _ s
  case cpuTick => exact adapterTick_cfg s
  case ulaTick => exact controllerTick_cfg s
  case crtUpdate => exact updatePixels_cfg _ _ _ _ s
  case schedBatch => exact runBatch_cfg s
  case schedRun => exact runLoop_cfg s
  case ticksN | lineEnd | fieldEnd | fieldsN => exact ticks_cfg _ s
  case outPort | poke | peek => exact scriptedTick_cfg _ _ _ s
  -- Every other operation is one update of other fields.
  all_goals rfl

/-- Settles O59, by cases on the operation. -/
theorem configurationConstant : Obligations.ConfigurationConstant := by
  intro i s t h
  exact exec_cfg h

/-! BORDER (R29). -/

/-- R167, R190: of the six transactions only an IO_WRITE writes BORDER, through a covering controller. -/
theorem resolve_border (p : PinWord) (s : State) : (resolve p s).border = s.border
    ∨ ∃ ctl data addr, decodePin p = .ioWrite ctl data addr ∧ (∃ e ∈ s.ioreg, covers e.1 addr = true ∧ e.2 = .ula)
        ∧ (resolve p s).border = borderOf data := by
  unfold resolve decodePin
  cases classify p
  case ioWrite =>
    rcases portWrite_border (pinGetAddr p) (pinGetData p) s with hkept | ⟨htaken, hset⟩
    · exact .inl hkept
    · exact .inr ⟨_, _, _, rfl, htaken, hset⟩
  case ioRead => exact .inl (portRead_border _ s)
  all_goals exact .inl rfl

/-- Neither the controller's own steps nor the end of a T-state write BORDER. -/
theorem closeTState_controllerTick_border (s : State) :
    (closeTState (controllerTick s)).border = (adapterTick s).border := by
  obtain ⟨_, _, _, _, _, _, hclose⟩ := closeTState_frame (controllerTick s)
  have hticked : (controllerTick s).border = (adapterTick s).border := by rw [controllerTick, controllerSteps_border]
  rw [hclose]
  exact hticked

/-- Settles O58: in a T-state only the transaction of the fetched word can write BORDER. -/
theorem borderChangesOnlyByPortWrite : Obligations.BorderChangesOnlyByPortWrite := by
  intro s t hrun h
  rw [step_running hrun] at h
  obtain rfl := Host.Outcome.next.inj h
  rw [closeTState_controllerTick_border]
  exact resolve_border (fetchWord s).1 (fetchWord s).2

/-! The machine just launched (70_reset_and_hazards.md R311), whatever its configuration, memory and core. -/

theorem canonical_nil {α : Type} (d : α) (hi : Nat) : Canonical d hi [] :=
  ⟨List.Pairwise.nil, fun _ hc => nomatch hc⟩

theorem launch_inv (cfg : Config) {mem : Memory} (hmem : Memory.wf mem) (core : CoreState) :
    Inv (State.launch cfg mem core) where
  mem := hmem
  line := by simp [State.launch]
  lcyc := by simp [State.launch]
  flashCtr := by simp [State.launch, flashPeriod]
  nextFrame := by simp [State.launch, frameT]
  fb := ⟨canonical_nil _ _, fun _ hrow => nomatch hrow⟩
  present := fun _ hf => nomatch hf
  batchPos := Nat.succ_pos _
  devs := ⟨0, canonical_nil _ _⟩

theorem launch_phase (cfg : Config) (mem : Memory) (core : CoreState) : Phase (State.launch cfg mem core) where
  raster := by simp [State.launch]
  lcyc := by simp [State.launch]
  field := by simp [State.launch]
  flashCtr := by simp [State.launch, flashPeriod]
  flashInv := by simp [State.launch]

/-- R192: LCYC is 0, so no INT_START lies before it, and the latch is clear. -/
theorem launch_latchWindow (cfg : Config) (mem : Memory) (core : CoreState) : LatchWindow (State.launch cfg mem core) := by
  simp [LatchWindow, State.launch]

theorem launch_cadence (cfg : Config) (mem : Memory) (core : CoreState) : Cadence (State.launch cfg mem core) := by
  simp [Cadence, State.launch, frameT]

theorem launch_runCadence (cfg : Config) (mem : Memory) (core : CoreState) : RunCadence (State.launch cfg mem core) :=
  ⟨Nat.le_refl 0, Nat.succ_pos _, by simp [State.launch, frameT], by simp [State.launch]⟩

/-- R7: the defaults are inside the constraints, whatever the open parameters. -/
theorem reset_running : Running State.reset := ⟨by decide, rfl, rfl⟩

/-- Settles O50: reset is the launch at the defaults, with nothing in Memory. -/
theorem resetMeetsInvariants : Obligations.ResetMeetsInvariants :=
  ⟨launch_inv _ (canonical_nil _ _) _, launch_phase _ _ _, launch_latchWindow _ _ _, launch_cadence _ _ _,
    launch_runCadence _ _ _, reset_running⟩

end Sys2Proof.Machine


/-! SUPPORT. The memory family (20_memory.md R67 to R71): the bytes below 0x4000 under every operation but the loads, and the one byte
a T-state can store. -/
namespace Sys2Proof.Machine

/-! The read-only region (R68). -/

/-- R68: every byte below 0x4000 reads in `t` as in `s`. -/
def RomKept (s t : State) : Prop := ∀ a : Addr, a.toNat < 0x4000 → memGet t.mem a = memGet s.mem a

theorem RomKept.trans {s t u : State} (hst : RomKept s t) (htu : RomKept t u) : RomKept s u :=
  fun a ha => (htu a ha).trans (hst a ha)

theorem RomKept.of_mem_eq {s t : State} (h : t.mem = s.mem) : RomKept s t :=
  fun a _ => by rw [h]

theorem memGet_memPut_rom (m : Memory) (a : Addr) (v : Byte) {b : Addr} (hb : b.toNat < 0x4000) :
    memGet (memPut m a v) b = memGet m b := by
  rw [memGet_memPut, if_neg]
  rintro ⟨rfl, hram⟩
  exact absurd hb (Nat.not_lt.2 hram)

/-- R164: of the six transactions only a write stores a byte, and not below 0x4000. -/
theorem resolve_romKept (p : PinWord) (s : State) : RomKept s (resolve p s) := by
  intro b hb
  rw [memGet_resolve, if_neg]
  rintro ⟨_, rfl, hram⟩
  exact absurd hb (Nat.not_lt.2 hram)

theorem adapterTick_romKept (s : State) : RomKept s (adapterTick s) := resolve_romKept _ (fetchWord s).2

theorem scriptedTick_romKept (flags : PinWord) (addr : Addr) (data : Byte) (s : State) :
    RomKept s (scriptedTick flags addr data s) := by
  rw [scriptedTick_eq]
  exact resolve_romKept _ _

/-- R181, R185: the controller's own steps only read Memory. -/
theorem controllerTick_mem (s : State) : (controllerTick s).mem = (adapterTick s).mem := by
  rw [controllerTick, controllerSteps_mem]

theorem controllerTick_romKept (s : State) : RomKept s (controllerTick s) :=
  (adapterTick_romKept s).trans (.of_mem_eq (controllerTick_mem s))

/-- R241: the count is kept outside Memory. -/
theorem tick_romKept (s : State) : RomKept s (tick s) :=
  (controllerTick_romKept s).trans (.of_mem_eq (by rw [tick, countTick]))

theorem ticks_romKept (n : Nat) (s : State) : RomKept s (ticks n s) := by
  induction n generalizing s with
  | zero => exact .of_mem_eq rfl
  | succ n ih => exact (tick_romKept s).trans (ih (tick s))

theorem runBatch_romKept (s : State) : RomKept s (runBatch s).2 :=
  (ticks_romKept (batchT s.cfg) s).trans (.of_mem_eq (endBatch_mem _))

theorem runLoop_romKept (s : State) : RomKept s (runLoop s) := by
  have batch := runBatch_romKept s
  unfold runLoop
  dsimp only
  split_ifs
  · exact batch
  · exact batch

/-- R68: an operation that is no load reaches Memory only through a bus write, which drops what goes below 0x4000. -/
theorem exec_romKept {i : Instr} {s t : State} (hload : isLoad i = false) (h : exec i s = .next t) : RomKept s t := by
  cases i
  case memLoad | loadRom | loadScr | loadSna => cases hload
  all_goals obtain rfl := Host.Outcome.next.inj h
  case memWrite | memWr => exact fun _ hb => memGet_memPut_rom s.mem _ _ hb
  case ioRead | ioRd => exact .of_mem_eq (portRead_mem _ s)
  case ioWrite | ioWr => exact .of_mem_eq (portWrite_mem _ _ s)
  case cpuTick => exact adapterTick_romKept s
  case ulaTick => exact controllerTick_romKept s
  case crtUpdate => exact .of_mem_eq (updatePixels_mem _ _ _ _ s)
  case schedBatch => exact runBatch_romKept s
  case schedRun => exact runLoop_romKept s
  case ticksN | lineEnd | fieldEnd | fieldsN => exact ticks_romKept _ s
  case outPort | poke | peek => exact scriptedTick_romKept _ _ _ s
  -- Every other operation is one update of other fields.
  all_goals exact .of_mem_eq rfl

/-- Settles O56, by cases on the operation: none but the loads goes past the bus write's bound. -/
theorem onlyLoadsWriteRom : Obligations.OnlyLoadsWriteRom := by
  intro i s t hload h
  exact exec_romKept hload h

/-! The byte a T-state stores (R67, R71). -/

/-- R164, R131: what Memory holds after the transaction of a word, said of the transaction the word decodes to. -/
theorem memGet_resolve_decodePin (p : PinWord) (s : State) (b : Addr) :
    memGet (resolve p s).mem b = match decodePin p with
      | .memWrite _ data addr => if b = addr ∧ 0x4000 ≤ addr.toNat then data else memGet s.mem b
      | _ => memGet s.mem b := by
  rw [memGet_resolve]
  unfold decodePin
  cases classify p
  case memWrite => simp [romEnd]
  all_goals rfl

/-- R181, R240: what follows the adapter's tick in a T-state leaves Memory alone. -/
theorem closeTState_controllerTick_mem (s : State) : (closeTState (controllerTick s)).mem = (adapterTick s).mem := by
  obtain ⟨_, _, _, _, _, _, hclose⟩ := closeTState_frame (controllerTick s)
  rw [hclose]
  exact controllerTick_mem s

/-- Settles O57: in a T-state only the transaction of the fetched word can store a byte. -/
theorem stepStoresOnlyFetchedWrite : Obligations.StepStoresOnlyFetchedWrite := by
  intro s t hrun h b
  rw [step_running hrun] at h
  obtain rfl := Host.Outcome.next.inj h
  rw [closeTState_controllerTick_mem]
  exact memGet_resolve_decodePin (fetchWord s).1 (fetchWord s).2 b

end Sys2Proof.Machine

/-! SUPPORT. The encoding family (30_encoding.md R90 to R108): the decoder and the encoder agree, which addresses a port mask selects, the
video addresses in numbers, and the stimulus operations as what they expand to. -/
namespace Sys2Proof

/-- The operation a transaction is, with the parts of its word as operands (R93). -/
def Transaction.toInstr (t : Transaction) (ctl : BitVec 40) (data : Byte) (addr : Addr) : Instr :=
  match t with
  | .memRead => .memRead ctl data addr
  | .memWrite => .memWrite ctl data addr
  | .intAck => .intAck ctl data addr
  | .ioRead => .ioRead ctl data addr
  | .ioWrite => .ioWrite ctl data addr
  | .busIdle => .busIdle ctl data addr

end Sys2Proof

namespace Sys2Proof.Machine

/-! Transactions and pin words (R91, R93). -/

theorem decodePin_eq_toInstr (p : PinWord) :
    decodePin p = (classify p).toInstr (pinCtl p) (pinGetData p) (pinGetAddr p) := by
  unfold decodePin
  cases classify p <;> rfl

theorem encode_toInstr (t : Transaction) (ctl : BitVec 40) (data : Byte) (addr : Addr) :
    encode (t.toInstr ctl data addr) = some (pinBytes (pinJoin ctl data addr)) := by
  cases t <;> rfl

/-- R93: a transaction is well-formed exactly when its word's first matching row is its own. -/
theorem wf_toInstr_iff (t : Transaction) (ctl : BitVec 40) (data : Byte) (addr : Addr) :
    (t.toInstr ctl data addr).wf = true ↔ classify (pinJoin ctl data addr) = t := by
  unfold classify
  simp only [rowMemRead_ctl, rowMemWrite_ctl, rowIntAck_ctl, rowIoRead_ctl, rowIoWrite_ctl]
  cases t
  all_goals
    simp only [Transaction.toInstr, Instr.wf]
    split_ifs <;> simp_all

theorem decodePin_pinJoin {t : Transaction} {ctl : BitVec 40} {data : Byte} {addr : Addr}
    (h : (t.toInstr ctl data addr).wf = true) : decodePin (pinJoin ctl data addr) = t.toInstr ctl data addr := by
  rw [decodePin_eq_toInstr, (wf_toInstr_iff t ctl data addr).1 h, pinCtl_pinJoin, pinGetData_pinJoin, pinGetAddr_pinJoin]

theorem exec_toInstr {t : Transaction} {ctl : BitVec 40} {data : Byte} {addr : Addr}
    (h : (t.toInstr ctl data addr).wf = true) (s : State) :
    exec (t.toInstr ctl data addr) s = .next (resolve (pinJoin ctl data addr) s) := by
  rw [← decodePin_pinJoin h, exec_decodePin]

/-! Bytes, least significant first (R90, R106). -/

theorem append_low_byte {w : Nat} (x : BitVec w) (k n : Nat) :
    x.extractLsb' (k + 8) n ++ x.extractLsb' k 8 = x.extractLsb' k (n + 8) :=
  BitVec.extractLsb'_append_extractLsb'_eq_extractLsb' rfl

theorem pinWord_of_bytes (p : PinWord) :
    (p.extractLsb' 56 8 ++ p.extractLsb' 48 8 ++ p.extractLsb' 40 8 ++ p.extractLsb' 32 8 ++ p.extractLsb' 24 8
      ++ p.extractLsb' 16 8 ++ p.extractLsb' 8 8 ++ p.extractLsb' 0 8 : BitVec 64) = p := by
  rw [append_low_byte p 48, append_low_byte p 40, append_low_byte p 32, append_low_byte p 24, append_low_byte p 16,
    append_low_byte p 8, append_low_byte p 0]
  exact BitVec.extractLsb'_eq_self

theorem addr_of_bytes (a : Addr) : (a.extractLsb' 8 8 ++ a.extractLsb' 0 8 : BitVec 16) = a := by
  rw [append_low_byte a 0]
  exact BitVec.extractLsb'_eq_self

theorem decode_pinBytes (p : PinWord) : decode (pinBytes p) = .ok (decodePin p) := by
  simp only [decode, pinBytes]
  rw [pinWord_of_bytes]

theorem decode_addrBytes {a : Addr} (h : covers portRowMask a = true) : decode (addrBytes a) = .ok (.ulaPortRd a) := by
  simp only [decode, addrBytes]
  rw [addr_of_bytes, if_pos h]

theorem decode_addrBytes_append {a : Addr} (h : covers portRowMask a = true) (v : Byte) :
    decode (addrBytes a ++ [v]) = .ok (.ulaPortWr a v) := by
  simp only [decode, addrBytes, List.cons_append, List.nil_append]
  rw [addr_of_bytes, if_pos h]

theorem extractByte_ofNat {k : Nat} (hk : k + 8 ≤ 64) (w : Nat) :
    (BitVec.ofNat 64 w).extractLsb' k 8 = BitVec.ofNat 8 (w / 2 ^ k) := by
  apply BitVec.eq_of_getLsbD_eq
  intro i hi
  have hword : k + i < 64 := by omega
  rw [BitVec.getLsbD_extractLsb', BitVec.getLsbD_ofNat, BitVec.getLsbD_ofNat, Nat.testBit_div_two_pow, Nat.add_comm i k]
  simp [hword]

theorem natToBytes_eq_pinBytes (w : Nat) : natToBytes 8 w = pinBytes (BitVec.ofNat 64 w) := by
  simp [natToBytes, pinBytes, extractByte_ofNat, Nat.div_div_eq_div_mul]

theorem decodeTableWord_pinWord (w : Nat) : decodeTableWord 64 w = some (decodePin (BitVec.ofNat 64 w)) := by
  rw [decodeTableWord, natToBytes_eq_pinBytes, decode_pinBytes]

/-! Decoding and encoding are inverse to each other. -/

theorem decode_of_encode_toInstr {t : Transaction} {ctl : BitVec 40} {data : Byte} {addr : Addr} {bs : List Byte}
    (hwf : (t.toInstr ctl data addr).wf = true) (h : encode (t.toInstr ctl data addr) = some bs) :
    decode bs = .ok (t.toInstr ctl data addr) := by
  rw [encode_toInstr] at h
  obtain rfl := Option.some.inj h
  rw [decode_pinBytes, decodePin_pinJoin hwf]

/-- Settles O47: the six transactions share one argument, the two port operations have their own bytes, and nothing else is
encoded. -/
theorem decodeOfEncode : Obligations.DecodeOfEncode := by
  intro i bs hwf h
  cases i
  case memRead => exact decode_of_encode_toInstr (t := .memRead) hwf h
  case memWrite => exact decode_of_encode_toInstr (t := .memWrite) hwf h
  case intAck => exact decode_of_encode_toInstr (t := .intAck) hwf h
  case ioRead => exact decode_of_encode_toInstr (t := .ioRead) hwf h
  case ioWrite => exact decode_of_encode_toInstr (t := .ioWrite) hwf h
  case busIdle => exact decode_of_encode_toInstr (t := .busIdle) hwf h
  case ulaPortRd =>
    obtain rfl := Option.some.inj h
    exact decode_addrBytes hwf
  case ulaPortWr value =>
    obtain rfl := Option.some.inj h
    exact decode_addrBytes_append hwf value
  all_goals cases h

theorem decodePin_wf (p : PinWord) : (decodePin p).wf = true := by
  rw [decodePin_eq_toInstr, wf_toInstr_iff, pinJoin_parts]

theorem encode_decodePin (p : PinWord) : encode (decodePin p) = some (pinBytes p) := by
  rw [decodePin_eq_toInstr, encode_toInstr, pinJoin_parts]

/-- Settles O48: a word is the join of its parts, which are the operands of what it decodes to. -/
theorem encodeOfDecode : Obligations.EncodeOfDecode :=
  fun p => ⟨decode_pinBytes p, decodePin_wf p, encode_decodePin p⟩

/-- Settles O46, by running the decoder on the six words. -/
theorem sampleWordsDecode : Obligations.SampleWordsDecode := by
  unfold Obligations.SampleWordsDecode
  decide

/-! Port masks (R94). -/

theorem covers_iff (m : BitVec 16) (a : Addr) : covers m a = true ↔ a &&& m = 0 := by
  rw [covers, beq_iff_eq]
  constructor
  · intro h
    rw [← h, ← BitVec.and_assoc]
    simp
  · intro h
    have parts : (~~~a ||| a) &&& m = ~~~a &&& m ||| a &&& m := BitVec.and_or_distrib_right
    rw [BitVec.not_or_self, BitVec.allOnes_and, h] at parts
    simpa using parts.symm

theorem covers_ulaMask_iff (a : Addr) : covers 0x0001 a = true ↔ a.toNat % 2 = 0 := by
  rw [covers_iff, ← BitVec.toNat_inj, BitVec.toNat_and]
  exact iff_of_eq (congrArg (· = 0) (Nat.and_one_is_mod a.toNat))

theorem covers_zero (a : Addr) : covers 0x0000 a = true := by
  simp [covers_iff]

theorem covers_allOnes_iff (a : Addr) : covers 0xFFFF a = true ↔ a = 0 := by
  rw [covers_iff]
  exact iff_of_eq (congrArg (· = 0) BitVec.and_allOnes)

theorem selectDevice_singleton {s : State} {m : BitVec 16} {d : Device} (h : s.ioreg = [(m, d)]) (a : Addr) :
    selectDevice a s = (if covers m a then some d else none, s) := by
  unfold selectDevice coveringDevices
  rw [h]
  cases hcovers : covers m a <;> simp [hcovers, pickDevice]

/-- Settles O6: covering is having no bit of the mask, so the mask 0x0001 splits the addresses by their parity. -/
theorem coverageRule : Obligations.CoverageRule := by
  refine ⟨fun s d a h => ⟨fun heven => ?_, fun hodd => ?_⟩, fun m a =>
    ⟨beq_iff_eq, covers_iff m a, covers_ulaMask_iff a, covers_zero a, covers_allOnes_iff a⟩⟩
  · rw [selectDevice_singleton h, if_pos ((covers_ulaMask_iff a).2 heven)]
  · have uncovered : ¬ covers 0x0001 a = true := by
      rw [covers_ulaMask_iff]
      omega
    have floating : portRead a s = (floatBus, s) := by
      rw [portRead, selectDevice_singleton h, if_neg uncovered]
    simp only [exec, execIoRd, floating, floatBus]

/-! Bit fields in numbers. -/

/-- A mask of `n` bits from bit `lo` up keeps that field in its place. -/
theorem nat_and_field (x lo n : Nat) : x &&& (2 ^ n - 1) * 2 ^ lo = x / 2 ^ lo % 2 ^ n * 2 ^ lo := by
  apply Nat.eq_of_testBit_eq
  intro i
  by_cases hi : lo ≤ i
  · simp [Nat.testBit_mul_two_pow, Nat.testBit_div_two_pow, hi, Bool.and_comm]
  · simp [Nat.testBit_mul_two_pow, hi]

theorem toNat_and_field {x lo n : Nat} (hx : x < 2 ^ 16) (hmask : (2 ^ n - 1) * 2 ^ lo < 2 ^ 16) :
    (BitVec.ofNat 16 x &&& BitVec.ofNat 16 ((2 ^ n - 1) * 2 ^ lo)).toNat = x / 2 ^ lo % 2 ^ n * 2 ^ lo := by
  rw [BitVec.toNat_and, BitVec.toNat_ofNat, BitVec.toNat_ofNat, Nat.mod_eq_of_lt hx, Nat.mod_eq_of_lt hmask, nat_and_field]

theorem toNat_shiftLeft_of_lt {x : BitVec 16} {m k : Nat} (hx : x.toNat = m) (h : m * 2 ^ k < 2 ^ 16) :
    (x <<< k).toNat = m * 2 ^ k := by
  rw [BitVec.toNat_shiftLeft, Nat.shiftLeft_eq, hx, Nat.mod_eq_of_lt h]

/-- Where bit `k` parts two values, joining their bits is adding them. -/
theorem toNat_or_of_disjoint {x y : BitVec 16} {m n : Nat} (k : Nat) (hx : x.toNat = m) (hy : y.toNat = n)
    (hm : 2 ^ k ∣ m) (hn : n < 2 ^ k) : (x ||| y).toNat = m + n := by
  obtain ⟨q, rfl⟩ := hm
  rw [BitVec.toNat_or, hx, hy, Nat.two_pow_add_eq_or_of_lt hn]

/-! The video addresses (R96, R97). -/

/-- R96 in numbers: the row gives a third of the screen, a line of pixels in its cell, and the cell's row in the third. -/
theorem displayAddr_toNat {row col : Nat} (hrow : row < 192) (hcol : col < 32) :
    (displayAddr row col).toNat = 0x4000 + row / 64 * 2048 + row % 8 * 256 + row / 8 % 8 * 32 + col := by
  have third : (BitVec.ofNat 16 row &&& 0xC0#16).toNat = row / 64 * 64 :=
    (toNat_and_field (lo := 6) (n := 2) (by omega) (by decide)).trans (by omega)
  have pixel : (BitVec.ofNat 16 row &&& 0x07#16).toNat = row % 8 :=
    (toNat_and_field (lo := 0) (n := 3) (by omega) (by decide)).trans (by omega)
  have cell : (BitVec.ofNat 16 row &&& 0x38#16).toNat = row / 8 % 8 * 8 :=
    (toNat_and_field (lo := 3) (n := 3) (by omega) (by decide)).trans (by omega)
  have column : (BitVec.ofNat 16 col &&& 0x1F#16).toNat = col :=
    (toNat_and_field (lo := 0) (n := 5) (by omega) (by decide)).trans (by omega)
  have third_placed := toNat_shiftLeft_of_lt (k := 5) third (by omega)
  have pixel_placed := toNat_shiftLeft_of_lt (k := 8) pixel (by omega)
  have cell_placed := toNat_shiftLeft_of_lt (k := 2) cell (by omega)
  have with_third := toNat_or_of_disjoint (x := 0x4000#16) (m := 0x4000) 13 rfl third_placed (by decide) (by omega)
  have with_pixel := toNat_or_of_disjoint 11 with_third pixel_placed (by omega) (by omega)
  have with_cell := toNat_or_of_disjoint 8 with_pixel cell_placed (by omega) (by omega)
  exact (toNat_or_of_disjoint 5 with_cell column (by omega) (by omega)).trans (by omega)

theorem displayAddr_injective {row col row' col' : Nat} (hrow : row < 192) (hcol : col < 32) (hrow' : row' < 192)
    (hcol' : col' < 32) (h : (displayAddr row' col').toNat = (displayAddr row col).toNat) : row' = row ∧ col' = col := by
  rw [displayAddr_toNat hrow hcol, displayAddr_toNat hrow' hcol'] at h
  have third : row' / 64 = row / 64 := by omega
  have pixel : row' % 8 = row % 8 := by omega
  have cell : row' / 8 % 8 = row / 8 % 8 := by omega
  omega

theorem exists_displayAddr {a : Nat} (hlo : 0x4000 ≤ a) (hhi : a < 0x5800) :
    ∃ row col, row < 192 ∧ col < 32 ∧ (displayAddr row col).toNat = a := by
  obtain ⟨third, pixel, cell, col, hthird, hpixel, hcell, hcol, ha⟩ : ∃ third pixel cell col, third < 3 ∧ pixel < 8 ∧ cell < 8
      ∧ col < 32 ∧ a = 0x4000 + third * 2048 + pixel * 256 + cell * 32 + col :=
    ⟨(a - 0x4000) / 2048, a / 256 % 8, a / 32 % 8, a % 32, by omega, by omega, by omega, by omega, by omega⟩
  have row_third : (third * 64 + cell * 8 + pixel) / 64 = third := by omega
  have row_cell : (third * 64 + cell * 8 + pixel) / 8 = third * 8 + cell := by omega
  refine ⟨third * 64 + cell * 8 + pixel, col, by omega, hcol, ?_⟩
  rw [displayAddr_toNat (by omega) hcol, row_third, row_cell]
  omega

/-- Settles O26: the address is a number in mixed radix whose digits are those of the row and the column. -/
theorem displayAddressBijection : Obligations.DisplayAddressBijection := by
  refine ⟨fun row col => displayAddr_toNat, fun a hlo hhi => ?_⟩
  obtain ⟨row, col, hrow, hcol, rfl⟩ := exists_displayAddr hlo hhi
  exact ⟨row, col, hrow, hcol, rfl, fun row' col' hrow' hcol' => displayAddr_injective hrow hcol hrow' hcol'⟩

theorem attrAddr_toNat {row col : Nat} (hrow : row < 192) (hcol : col < 32) :
    (attrAddr row col).toNat = 0x5800 + row / 8 * 32 + col := by
  simp only [attrAddr, BitVec.toNat_add, BitVec.toNat_mul, BitVec.toNat_ushiftRight, BitVec.toNat_ofNat, Nat.shiftRight_eq_div_pow]
  omega

theorem attrLayout_toNat {row col : Nat} (hrow : row < 192) (hcol : col < 32) :
    (0x5800#16 ||| (BitVec.ofNat 16 (row / 8) <<< 5) ||| BitVec.ofNat 16 col).toNat = 0x5800 + row / 8 * 32 + col := by
  have cell : (BitVec.ofNat 16 (row / 8)).toNat = row / 8 := Nat.mod_eq_of_lt (by omega)
  have column : (BitVec.ofNat 16 col).toNat = col := Nat.mod_eq_of_lt (by omega)
  have cell_placed := toNat_shiftLeft_of_lt (k := 5) cell (by omega)
  have with_cell := toNat_or_of_disjoint (x := 0x5800#16) (m := 0x5800) 10 rfl cell_placed (by decide) (by omega)
  exact toNat_or_of_disjoint 5 with_cell column (by omega) (by omega)

/-- Settles O27: both forms are the one number, which sees of the row only its cell. -/
theorem attributeAddressLinear : Obligations.AttributeAddressLinear := by
  intro row col hrow hcol
  have value := attrAddr_toNat hrow hcol
  have layout := attrLayout_toNat hrow hcol
  refine ⟨value, BitVec.eq_of_toNat_eq (value.trans layout.symm), by omega, by omega, fun row' hcell => ?_⟩
  apply BitVec.eq_of_toNat_eq
  rw [value, attrAddr_toNat (by omega) hcol, hcell]

/-! OUT, POKE and PEEK, and a placed word: the next tick of a scripted core (R108). -/

theorem adapterTick_scripted (w : PinWord) (ws : List PinWord) (s : State) :
    adapterTick { s with core := { s.core with script := some (w :: ws) } }
      = resolve w { s with core := { s.core with held := [], script := some ws } } := rfl

/-- R120 with fields that fit: the word of the flags, the data and the address. -/
theorem pinPack_eq_pinJoin (flags : PinWord) (addr : Addr) (data : Byte) :
    pinPack flags (addr.zeroExtend 64) (data.zeroExtend 64) = pinJoin (pinCtl (flags &&& ctrlMask)) data addr := by
  apply BitVec.eq_of_getLsbD_eq
  intro i hi
  rw [pinPack_bit, pinJoin_bit, pinCtl_bit, BitVec.getLsbD_and, ctrlMask_bit]
  by_cases haddr : i < 16
  · simp [haddr, hi]
  · by_cases hdata : i < 24
    · have hwide : i - 16 < 64 := by omega
      simp [haddr, hdata, hwide]
    · have hback : 24 + (i - 24) = i := by omega
      have hctl : i - 24 < 40 := by omega
      have habove : 24 ≤ i := by omega
      simp [haddr, hdata, hback, hctl, habove, Bool.and_comm]

/-- R108: a stimulus is the transaction of its word, after R154's law has ended, and one CPU_TICK of a core scripted with it. -/
theorem scriptedTick_expands {t : Transaction} {flags : PinWord} {ctl : BitVec 40} {data : Byte} {addr : Addr}
    (hctl : pinCtl (flags &&& ctrlMask) = ctl) (hwf : (t.toInstr ctl data addr).wf = true) (s : State) :
    exec (t.toInstr ctl data addr) { s with core := { s.core with held := [] } } = .next (scriptedTick flags addr data s)
      ∧ ∃ u, exec .cpuTick { s with core := { s.core with script := some [pinJoin ctl data addr] } } = .next u
        ∧ scriptedTick flags addr data s = { u with core := { u.core with script := s.core.script } } := by
  have word := pinPack_eq_pinJoin flags addr data
  rw [hctl] at word
  constructor
  · rw [exec_toInstr hwf, scriptedTick_eq, word]
  · exact ⟨_, rfl, by rw [scriptedTick, word]⟩

/-- Settles O40: each is a scripted tick of its word; PEEK then reads the byte its MEM_READ placed. -/
theorem portAndMemoryNotationExpands : Obligations.PortAndMemoryNotationExpands := by
  intro s a v
  obtain ⟨out_word, out_end, out_tick, out_eq⟩ :=
    scriptedTick_expands (t := .ioWrite) (flags := maskIORQ ||| maskWR) (ctl := 0x14) (data := v) (addr := a) (by decide) rfl s
  obtain ⟨poke_word, poke_end, poke_tick, poke_eq⟩ :=
    scriptedTick_expands (t := .memWrite) (flags := maskMREQ ||| maskWR) (ctl := 0x12) (data := v) (addr := a) (by decide) rfl s
  obtain ⟨peek_word, peek_end, peek_tick, peek_eq⟩ :=
    scriptedTick_expands (t := .memRead) (flags := maskMREQ ||| maskRD) (ctl := 0x0A) (data := 0) (addr := a) (by decide) rfl s
  refine ⟨⟨_, out_end, rfl, out_word, out_tick, out_eq⟩, ⟨_, poke_end, rfl, poke_word, poke_tick, poke_eq⟩,
    ⟨_, peek_end, peek_word, ?_, peek_tick, peek_eq⟩⟩
  have byte : pinGetData (scriptedTick (maskMREQ ||| maskRD) a 0 s).pins = memGet s.mem a := by
    rw [← Host.Outcome.next.inj peek_word]
    simp [serveMemRead]
  rw [← byte]
  rfl

/-- Settles O45: the placed state is in the run loop, and its T-state is the scripted tick of the word. -/
theorem placedWordRunsNext : Obligations.PlacedWordRunsNext := by
  intro s w hconfig _
  have running : Running (s.withFetchWord 64 w) := ⟨hconfig, rfl, rfl⟩
  have fetched := adapterTick_scripted (BitVec.ofNat 64 w) [] { s with calls := [], ended := false }
  refine ⟨_, exec_decodePin _ _, ?_, decodeTableWord_pinWord w⟩
  rw [step_running running]
  exact congrArg (fun t => Host.Outcome.next (finishTState t)) fetched

/-! TICKS, LINE_END, FIELD_END and FIELDS (R108), and an issued operation (R107, R260). -/

/-- Settles O39: the counts are the rule's own, and TICKS is the recursion on counted ticks. -/
theorem tickNotationExpands : Obligations.TickNotationExpands :=
  fun s n => ⟨rfl, ⟨controllerTick s, ticks n (tick s), rfl, rfl, rfl⟩, rfl, rfl, rfl, ⟨_, rfl⟩, ⟨_, rfl⟩, ⟨_, rfl⟩⟩

/-- Settles O43, which is the branch of step for a pending operation. -/
theorem stepRunsIssuedOperation : Obligations.StepRunsIssuedOperation :=
  fun _ _ _ hconfig hended hissued => step_issued hconfig hended hissued

/-! The raster position under TICKS (R188). -/

/-- R26, R27: the raster position is one of a field. -/
def RasterInRange (s : State) : Prop := s.line.toNat < 312 ∧ s.lcyc.toNat < 224

/-- The T-states since the field began. -/
def rasterPos (s : State) : Nat := s.line.toNat * 224 + s.lcyc.toNat

theorem rasterPos_lt {s : State} (h : RasterInRange s) : rasterPos s < 69888 := by
  obtain ⟨hline, hlcyc⟩ := h
  unfold rasterPos
  omega

/-- R188: FIELD is toggled at the end of a field, whatever the flash counter. -/
theorem advance_field_of_inRange {s : State} (h : RasterInRange s) :
    (advance s).field = if rasterPos s + 1 = 69888 then !s.field else s.field := by
  obtain ⟨hline, hlcyc⟩ := h
  have field_ends : rasterPos s + 1 = 69888 ↔ s.lcyc + 1 = 224 ∧ s.line + 1 = 312 := by
    unfold rasterPos
    bv_omega
  unfold advance endField
  simp only [field_ends]
  split_ifs <;> simp_all

theorem tick_raster_eq_advance (s : State) :
    (tick s).lcyc = (advance s).lcyc ∧ (tick s).line = (advance s).line ∧ (tick s).field = (advance s).field := by
  obtain ⟨hlcyc, hline, hfield, _⟩ := controllerTick_raster s
  rw [tick, countTick]
  exact ⟨hlcyc, hline, hfield⟩

theorem tick_rasterPos {s : State} (h : RasterInRange s) :
    RasterInRange (tick s) ∧ rasterPos (tick s) = (rasterPos s + 1) % 69888 := by
  obtain ⟨hline, hlcyc⟩ := h
  obtain ⟨tick_lcyc, tick_line, _⟩ := tick_raster_eq_advance s
  obtain ⟨advance_lcyc, advance_line⟩ := advance_raster hline hlcyc
  rw [RasterInRange, rasterPos, tick_lcyc, tick_line, advance_lcyc, advance_line, rasterPos]
  split_ifs <;> omega

theorem tick_field {s : State} (h : RasterInRange s) :
    (tick s).field = if rasterPos s + 1 = 69888 then !s.field else s.field := by
  obtain ⟨_, _, hfield⟩ := tick_raster_eq_advance s
  rw [hfield, advance_field_of_inRange h]

theorem ticks_rasterPos (n : Nat) {s : State} (h : RasterInRange s) :
    RasterInRange (ticks n s) ∧ rasterPos (ticks n s) = (rasterPos s + n) % 69888 := by
  induction n generalizing s with
  | zero => exact ⟨h, (Nat.mod_eq_of_lt (rasterPos_lt h)).symm⟩
  | succ n ih =>
    obtain ⟨hrange, hpos⟩ := tick_rasterPos h
    obtain ⟨hrange', hpos'⟩ := ih hrange
    rw [ticks]
    exact ⟨hrange', by omega⟩

theorem ticks_field_inside {n : Nat} {s : State} (h : RasterInRange s) (hn : rasterPos s + n < 69888) :
    (ticks n s).field = s.field := by
  induction n generalizing s with
  | zero => rfl
  | succ n ih =>
    obtain ⟨hrange, hpos⟩ := tick_rasterPos h
    rw [ticks, ih hrange (by omega), tick_field h, if_neg (by omega)]

/-- Of the ticks up to the end of a field the last alone toggles FIELD. -/
theorem ticks_field_end {n : Nat} {s : State} (h : RasterInRange s) (hn : rasterPos s + n = 69888) :
    (ticks n s).field = !s.field := by
  cases n with
  | zero => exact absurd hn (rasterPos_lt h).ne
  | succ n =>
    obtain ⟨hrange, hpos⟩ := ticks_rasterPos n h
    have last : ticks (n + 1) s = tick (ticks n s) := ticks_add n 1 s
    rw [last, tick_field hrange, if_pos (by omega), ticks_field_inside h (by omega)]

/-- Settles O41: each count is the distance to the boundary, and the position grows by the count modulo a field. -/
theorem lineAndFieldEndReachBoundary : Obligations.LineAndFieldEndReachBoundary := by
  intro s hline hlcyc
  have hrange : RasterInRange s := ⟨hline, hlcyc⟩
  constructor
  · obtain ⟨⟨_, hlcyc'⟩, hpos⟩ := ticks_rasterPos (224 - s.lcyc.toNat) hrange
    unfold rasterPos at hpos
    have lcyc_zero : (ticks (224 - s.lcyc.toNat) s).lcyc.toNat = 0 := by omega
    have next_line : (ticks (224 - s.lcyc.toNat) s).line.toNat = (s.line.toNat + 1) % 312 := by omega
    exact ⟨_, rfl, BitVec.eq_of_toNat_eq lcyc_zero, next_line, ticks_tstates _ s⟩
  · have hpos : rasterPos s + (69888 - rasterPos s) = 69888 := Nat.add_sub_cancel' (rasterPos_lt hrange).le
    have start : rasterPos (ticks (69888 - rasterPos s) s) = 0 := by rw [(ticks_rasterPos _ hrange).2, hpos]
    have line_zero : (ticks (69888 - rasterPos s) s).line.toNat = 0 := by
      unfold rasterPos at start ⊢
      omega
    have lcyc_zero : (ticks (69888 - rasterPos s) s).lcyc.toNat = 0 := by
      unfold rasterPos at start ⊢
      omega
    exact ⟨_, rfl, BitVec.eq_of_toNat_eq lcyc_zero, BitVec.eq_of_toNat_eq line_zero, ticks_field_end hrange hpos,
      ticks_tstates _ s⟩

end Sys2Proof.Machine

/-! SUPPORT. The pin codec family (40_pin_codec.md R120 to R125): a setter replaces one part of the word {ctl, data, addr} and PIN_PACK
builds a whole word, so each law of R125 reads a part of a joined word. -/
namespace Sys2Proof.Machine

/-- R122: setting the address replaces the address part. -/
theorem pinSetAddr_pinJoin (c : BitVec 40) (d : Byte) (a b : Addr) :
    pinSetAddr (pinJoin c d a) (b.zeroExtend 64) = pinJoin c d b := by
  apply BitVec.eq_of_getLsbD_eq
  intro i hi
  rw [pinSetAddr_bit, pinJoin_bit, pinJoin_bit]
  by_cases haddr : i < 16
  · simp [haddr, hi]
  · simp [haddr]

theorem pinSetAddr_eq_pinJoin (p : PinWord) (a : Addr) :
    pinSetAddr p (a.zeroExtend 64) = pinJoin (pinCtl p) (pinGetData p) a := by
  conv_lhs => rw [← pinJoin_parts p]
  exact pinSetAddr_pinJoin _ _ _ _

/-- R124: setting the data replaces the data part. -/
theorem pinSetData_eq_pinJoin (p : PinWord) (d : Byte) :
    pinSetData p (d.zeroExtend 64) = pinJoin (pinCtl p) d (pinGetAddr p) := by
  conv_lhs => rw [← pinJoin_parts p]
  exact placeData_pinJoin _ _ _ _

/-- R120: neither the address nor the data reaches the flags of a packed word, however wide. -/
theorem pinPack_and_ctrlMask (f a d : BitVec 64) : pinPack f a d &&& ctrlMask = f &&& ctrlMask := by
  apply BitVec.eq_of_getLsbD_eq
  intro i _
  rw [BitVec.getLsbD_and, BitVec.getLsbD_and, pinPack_bit, ctrlMask_bit]
  by_cases hflag : 24 ≤ i ∧ i < 35
  · have above_addr : ¬ i < 16 := by omega
    have above_data : ¬ i < 24 := by omega
    simp [above_addr, above_data, hflag]
  · simp [hflag]

/-- R125: a flag is tested by its mask. -/
theorem flagSet_iff (p flag : PinWord) : flagSet p flag = true ↔ p &&& flag ≠ 0 := bne_iff_ne

/-- Settles O2: each law of the fields reads one part of the joined word that a setter or PIN_PACK answers. -/
theorem codecLaws : Obligations.CodecLaws := by
  refine ⟨fun _ _ _ _ => rfl, fun p f flag a d => ?_⟩
  rw [pinSetAddr_eq_pinJoin, pinSetData_eq_pinJoin, pinPack_and_ctrlMask, pinPack_eq_pinJoin]
  exact ⟨pinGetAddr_pinJoin _ _ _, pinGetData_pinJoin _ _ _, pinGetData_pinJoin _ _ _, pinGetAddr_pinJoin _ _ _,
    pinCtl_pinJoin _ _ _, pinCtl_pinJoin _ _ _, pinGetAddr_pinJoin _ _ _, pinGetData_pinJoin _ _ _, rfl,
    flagSet_iff p flag, rfl, rfl⟩

/-- Settles O1: each operation is one update of the returned value, by the mask the rule names. -/
theorem codecOperationsReturn : Obligations.CodecOperationsReturn :=
  fun _ _ _ _ => ⟨rfl, rfl, rfl, rfl⟩

end Sys2Proof.Machine

/-! SUPPORT. The memory operations family (41_memory_ops.md R130 to R133): what a load answers and leaves in Memory, one lemma per outcome,
and the laws of MEM_RD and MEM_WR. -/
namespace Sys2Proof.Machine

/-! What a load answers (R132). -/

theorem loadImage_short {source : List Byte} {length : Nat} (h : source.length < length) (dest : Addr) (s : State) :
    loadImage source dest length s = .fault .loadError := if_pos h

theorem loadImage_pastEnd {source : List Byte} {dest : Addr} {length : Nat} (hlen : length ≤ source.length)
    (hend : memSize < dest.toNat + length) (s : State) : loadImage source dest length s = .refused .loadPastEnd := by
  rw [loadImage, if_neg (by omega), if_pos hend]

theorem loadImage_copied {source : List Byte} {dest : Addr} {length : Nat} (hlen : length ≤ source.length)
    (hend : dest.toNat + length ≤ memSize) (s : State) :
    loadImage source dest length s = .next { s with mem := memSplice s.mem dest.toNat (source.take length) } := by
  rw [loadImage, if_neg (by omega), if_neg (by omega)]

/-- R132: of the source, exactly the first `length` bytes are in Memory after a copy. -/
theorem memGet_memSplice_take {source : List Byte} {length : Nat} (hlen : length ≤ source.length) (m : Memory) (dest : Nat) (b : Addr) :
    memGet (memSplice m dest (source.take length)) b =
      if dest ≤ b.toNat ∧ b.toNat < dest + length then source.getD (b.toNat - dest) unwrittenByte else memGet m b := by
  rw [memGet_memSplice, List.length_take_of_le hlen]
  split_ifs with hb
  · have inside : b.toNat - dest < length := by omega
    rw [List.getD_eq_getElem?_getD, List.getD_eq_getElem?_getD, List.getElem?_take_of_lt inside]
  · rfl

/-- Settles O5: the two tests of a load come before its copy, and a copy is read back byte by byte. -/
theorem loadImageCopiesOrStops : Obligations.LoadImageCopiesOrStops := fun s _ dest _ =>
  ⟨fun hshort => loadImage_short hshort dest s, fun hlen hend => loadImage_pastEnd hlen hend s, fun hlen hend =>
    ⟨_, loadImage_copied hlen hend s, rfl, memGet_memSplice_take hlen s.mem dest.toNat⟩⟩

/-! MEM_RD and MEM_WR (R130, R131, R133). -/

/-- Settles O3: a write is one `memPut`, and `memGet_memPut` says which byte it changes. -/
theorem memoryReadAndWrite : Obligations.MemoryReadAndWrite := fun s a v =>
  ⟨rfl, _, rfl, rfl, fun b => memGet_memPut s.mem a b v⟩

/-- Settles O4: a read answers the byte in Memory, before the write and after it, and O3 says what that byte is after it. -/
theorem memoryLaws : Obligations.MemoryLaws := by
  intro s a b v
  obtain ⟨-, t, write, -, bytes⟩ := memoryReadAndWrite s a v
  have read (u : State) : exec (.memRd b) u = .next { u with result := .byte (memGet u.mem b) } := (memoryReadAndWrite u b v).1
  refine ⟨_, t, _, read s, rfl, write, read t, rfl, fun hb hram => ?_, fun _ hrom => ?_, fun hb => ?_⟩
  · exact congrArg Result.byte ((bytes b).trans (if_pos ⟨hb, hram⟩))
  · exact congrArg Result.byte ((bytes b).trans (if_neg fun ⟨_, hram⟩ => Nat.not_lt.2 hram hrom))
  · exact congrArg Result.byte ((bytes b).trans (if_neg fun ⟨heq, _⟩ => hb heq))

end Sys2Proof.Machine

/-! SUPPORT. The I/O registry family (42_io_registry.md R140 to R144): which device a port access selects, in registration order and under
either order, and what the selected device does with the access. -/
namespace Sys2Proof.Machine

/-! The selected device (R142, R143, R144). -/

theorem coveringDevices_head? (ioreg : List (BitVec 16 × Device)) (a : Addr) :
    (coveringDevices ioreg a).head? = (ioreg.find? fun e => covers e.1 a).map (·.2) := by
  rw [coveringDevices, List.head?_map, List.head?_filter]

theorem mem_coveringDevices {ioreg : List (BitVec 16 × Device)} {a : Addr} {d : Device} :
    d ∈ coveringDevices ioreg a ↔ ∃ e ∈ ioreg, covers e.1 a = true ∧ e.2 = d := by
  simp only [coveringDevices, List.mem_map, List.mem_filter, and_assoc]

theorem coveringDevices_eq_nil_iff {ioreg : List (BitVec 16 × Device)} {a : Addr} :
    coveringDevices ioreg a = [] ↔ ∀ e ∈ ioreg, covers e.1 a = false := by
  simp only [coveringDevices, List.map_eq_nil_iff, List.filter_eq_nil_iff, Bool.not_eq_true]

/-- R142: in registration order, or with no choice, the first device is picked, and no free value is taken. -/
theorem pickDevice_first {order : DispatchOrder} {ds : List Device} (h : order = .registration ∨ ds.length ≤ 1) (free : Nat) :
    pickDevice order free ds = (ds.head?, 0) := by
  match ds, order, h with
  | [], _, _ => rfl
  | [_], _, _ => rfl
  | _ :: _ :: _, _, .inl rfl => rfl
  | _ :: _ :: _, _, .inr hlen => simp at hlen

/-- R144: under either order some device is picked, if there is one. -/
theorem pickDevice_mem (order : DispatchOrder) (free : Nat) {ds : List Device} (h : ds ≠ []) :
    ∃ d ∈ ds, (pickDevice order free ds).1 = some d := by
  match ds, order with
  | [d], _ => exact ⟨d, List.mem_cons_self, rfl⟩
  | d :: _ :: _, .registration => exact ⟨d, List.mem_cons_self, rfl⟩
  | d :: d' :: ds, .anyCovering =>
    have inside : Config.dispatchPick free % ((d' :: ds).length + 1) < (d :: d' :: ds).length := Nat.mod_lt _ (Nat.succ_pos _)
    exact ⟨_, List.getElem_mem inside, List.getElem?_eq_getElem inside⟩

theorem selectDevice_first {s : State} (h : s.cfg.dispatch = .registration ∨ s.ioreg.length ≤ 1) (a : Addr) :
    selectDevice a s = ((s.ioreg.find? fun e => covers e.1 a).map (·.2), s) := by
  have covering : s.cfg.dispatch = .registration ∨ (coveringDevices s.ioreg a).length ≤ 1 := by
    refine h.imp_right (le_trans ?_)
    rw [coveringDevices, List.length_map]
    exact List.length_filter_le _ _
  rw [selectDevice, pickDevice_first covering, coveringDevices_head?]
  rfl

theorem selectDevice_cases (a : Addr) (s : State) :
    (∀ e ∈ s.ioreg, covers e.1 a = false) ∧ (selectDevice a s).1 = none
      ∨ ∃ e ∈ s.ioreg, covers e.1 a = true ∧ (selectDevice a s).1 = some e.2 := by
  by_cases hnone : coveringDevices s.ioreg a = []
  · refine .inl ⟨coveringDevices_eq_nil_iff.1 hnone, ?_⟩
    rw [selectDevice, hnone]
    rfl
  · obtain ⟨d, hd, hpick⟩ := pickDevice_mem s.cfg.dispatch s.free hnone
    obtain ⟨e, he, hcovers, rfl⟩ := mem_coveringDevices.1 hd
    exact .inr ⟨e, he, hcovers, hpick⟩

/-- R141: after an entry under the same mask a new one is never the first that covers. -/
theorem find?_covers_append_of_mem {ioreg : List (BitVec 16 × Device)} {m : BitVec 16} (h : m ∈ ioreg.map (·.1)) (d : Device)
    (a : Addr) : (ioreg ++ [(m, d)]).find? (fun e => covers e.1 a) = ioreg.find? fun e => covers e.1 a := by
  rw [List.find?_append]
  cases hcovers : covers m a with
  | false => simp [hcovers]
  | true =>
    obtain ⟨e, he, rfl⟩ := List.mem_map.1 h
    have found : (ioreg.find? fun e => covers e.1 a).isSome := List.find?_isSome.2 ⟨e, he, hcovers⟩
    exact Option.or_of_isSome found

/-! The access (R140, R142, R143). -/

theorem portRead_of_selected {a : Addr} {s : State} {d : Device} (h : (selectDevice a s).1 = some d) :
    portRead a s = deviceRead d a (selectDevice a s).2 := by
  rw [portRead, h]

theorem portRead_of_none {a : Addr} {s : State} (h : (selectDevice a s).1 = none) :
    portRead a s = (floatBus, (selectDevice a s).2) := by
  rw [portRead, h]

theorem portWrite_of_selected {a : Addr} {s : State} {d : Device} (h : (selectDevice a s).1 = some d) (v : Byte) :
    portWrite a v s = deviceWrite d a v (selectDevice a s).2 := by
  rw [portWrite, h]

theorem portWrite_of_none {a : Addr} {s : State} (h : (selectDevice a s).1 = none) (v : Byte) :
    portWrite a v s = (selectDevice a s).2 := by
  rw [portWrite, h]

theorem portRead_frame (a : Addr) (s : State) :
    (portRead a s).2 = { s with free := (portRead a s).2.free, devs := (portRead a s).2.devs } := by
  cases hsel : (selectDevice a s).1 with
  | none =>
    rw [portRead_of_none hsel]
    rfl
  | some d =>
    rw [portRead_of_selected hsel]
    cases d <;> rfl

theorem portWrite_frame (a : Addr) (v : Byte) (s : State) :
    portWrite a v s =
      { s with free := (portWrite a v s).free, devs := (portWrite a v s).devs, border := (portWrite a v s).border } := by
  cases hsel : (selectDevice a s).1 with
  | none =>
    rw [portWrite_of_none hsel]
    rfl
  | some d =>
    rw [portWrite_of_selected hsel]
    cases d <;> rfl

/-- Settles O7: the appended entry is behind the one under the same mask. -/
theorem ioRegisterAppends : Obligations.IoRegisterAppends := by
  intro s m d
  refine ⟨_, rfl, rfl, fun horder hmask a => ?_⟩
  have appended := selectDevice_first (s := { s with ioreg := s.ioreg ++ [(m, d)] }) (.inl horder) a
  rw [appended, selectDevice_first (.inl horder), find?_covers_append_of_mem hmask]

/-- Settles O8, by the kind of the first covering device. -/
theorem ioRdAsksFirstCovering : Obligations.IoRdAsksFirstCovering := by
  intro s a horder
  refine ⟨fun hnone => ?_, fun ⟨m, d⟩ hfirst => ?_⟩
  · have select : selectDevice a s = (none, s) := by rw [selectDevice_first horder, hnone, Option.map_none]
    have floating : portRead a s = (floatBus, s) := by rw [portRead_of_none (congrArg Prod.fst select), select]
    simp only [exec, execIoRd, floating, floatBus]
  · have select : selectDevice a s = (some d, s) := by rw [selectDevice_first horder, hfirst, Option.map_some]
    have served : portRead a s = deviceRead d a s := by rw [portRead_of_selected (congrArg Prod.fst select), select]
    simp only [exec, execIoRd, served]
    cases d <;> rfl

/-- Settles O9, by the kind of the first covering device. -/
theorem ioWrWritesFirstCovering : Obligations.IoWrWritesFirstCovering := by
  intro s a v horder
  refine ⟨fun hnone => ?_, fun ⟨m, d⟩ hfirst => ?_⟩
  · have select : selectDevice a s = (none, s) := by rw [selectDevice_first horder, hnone, Option.map_none]
    have kept : portWrite a v s = s := by rw [portWrite_of_none (congrArg Prod.fst select), select]
    exact congrArg Host.Outcome.next kept
  · have select : selectDevice a s = (some d, s) := by rw [selectDevice_first horder, hfirst, Option.map_some]
    have served : portWrite a v s = deviceWrite d a v s := by rw [portWrite_of_selected (congrArg Prod.fst select), select]
    simp only [exec, execIoWr, served]
    cases d <;> rfl

/-- Settles O10: the selected device covers the address under either order, and the access is that device's operation. -/
theorem someCoveringDeviceServes : Obligations.SomeCoveringDeviceServes := by
  intro s a v
  have readFrame := congrArg (fun t : State => { t with result := .byte (portRead a s).1 }) (portRead_frame a s)
  rcases selectDevice_cases a s with ⟨huncovered, hsel⟩ | ⟨⟨m, d⟩, he, hcovers, hsel⟩
  · refine ⟨⟨_, (portRead a s).1, rfl, readFrame, .inl ⟨huncovered, ?_⟩⟩,
      portWrite a v s, rfl, portWrite_frame a v s, .inl ⟨huncovered, ?_⟩⟩
    · rw [portRead_of_none hsel]
      exact ⟨rfl, rfl⟩
    · rw [portWrite_of_none hsel]
      exact ⟨rfl, rfl⟩
  · refine ⟨⟨_, (portRead a s).1, rfl, readFrame, .inr ⟨(m, d), he, hcovers, ?_⟩⟩,
      portWrite a v s, rfl, portWrite_frame a v s, .inr ⟨(m, d), he, hcovers, ?_⟩⟩
    · rw [portRead_of_selected hsel]
      cases d with
      | ula => exact ⟨rfl, rfl⟩
      | stub _ => exact ⟨rfl, rfl⟩
      | ext id => exact ⟨(selectDevice a s).2.free, rfl, fun other => devGet_devSet s.devs id other _⟩
    · rw [portWrite_of_selected hsel]
      cases d with
      | ula => exact ⟨rfl, rfl⟩
      | stub _ => exact ⟨rfl, rfl⟩
      | ext id => exact ⟨rfl, fun other => devGet_devSet s.devs id other _⟩

end Sys2Proof.Machine

/-! SUPPORT. The core contract family (43_cpu_core_contract.md R150 to R154): the tick of the bound core and of a scripted one, one lemma per
form of the script, and what a prefetch, a boundary query, a setter and a getter leave in CORE. -/
namespace Sys2Proof.Machine

/-! CORE_TICK (R150, R151). -/

theorem coreStep_bound {c : CoreState} (h : c.script = none) (p : PinWord) :
    coreStep p c =
      ({ c with regs := (Config.coreTick c.regs c.hidden p).1, hidden := (Config.coreTick c.regs c.hidden p).2.1, held := [] },
        (Config.coreTick c.regs c.hidden p).2.2) := by
  rw [coreStep, h]

theorem coreStep_scripted {c : CoreState} {w : PinWord} {ws : List PinWord} (h : c.script = some (w :: ws)) (p : PinWord) :
    coreStep p c = ({ c with held := [], script := some ws }, w) := by
  rw [coreStep, h]

theorem coreStep_spent {c : CoreState} (h : c.script = some []) (p : PinWord) : coreStep p c = ({ c with held := [] }, 0) := by
  rw [coreStep, h]

/-- A tick's outcome is `coreStep`: the core it makes and the word it returns. -/
theorem exec_coreTick_of_coreStep {s : State} {p : PinWord} {c : CoreState} {w : PinWord} (h : coreStep p s.core = (c, w)) :
    exec (.coreTick p) s = .next { s with core := c, result := .pins w } := by
  simp only [exec, execCoreTick, h]

/-- Settles O12, by the form of the script. -/
theorem coreTickAdvancesCore : Obligations.CoreTickAdvancesCore := fun _ p =>
  ⟨fun hbound => exec_coreTick_of_coreStep (coreStep_bound hbound p),
    fun _ _ hscripted => exec_coreTick_of_coreStep (coreStep_scripted hscripted p),
    fun hspent => exec_coreTick_of_coreStep (coreStep_spent hspent p)⟩

/-! CORE_PREFETCH and CORE_IBOUND (R152, R153). -/

/-- Settles O13: a prefetch is `coreRedirect`, which keeps the registers held but PC and takes every other one from the core. -/
theorem corePrefetchAndBoundary : Obligations.CorePrefetchAndBoundary := by
  intro s a
  have registers (reg : CoreReg) : regGet reg (coreRedirect a s.core).1.regs =
      regGet reg (if reg ∈ (coreRedirect a s.core).1.held then s.core.regs
        else (Config.corePrefetch s.core.regs s.core.hidden a).1) := by
    simp only [regGet_coreRedirect, mem_coreRedirect_held]
  exact ⟨⟨_, rfl, rfl, coreRedirect_script a s.core, rfl, fun _ => mem_coreRedirect_held, registers⟩, rfl⟩

/-! CORE_GETREG and CORE_SETREG (R154). -/

theorem exec_coreGetreg_of_regGet {s : State} {reg : CoreReg} {v : BitVec 16} (h : regGet reg s.core.regs = v) :
    exec (.coreGetreg reg) s = .next { s with result := .value v } := by
  simp only [exec, execCoreGetreg, h]

/-- Settles O14: a set is `coreSet`, after which the register written reads as written and the ones held before it as they did. -/
theorem coreSetThenGet : Obligations.CoreSetThenGet := by
  refine ⟨fun _ _ => rfl, fun s reg v hv => ?_⟩
  have written : regGet reg (coreSet reg v s.core).regs = v := (regGet_coreSet reg reg hv s.core).trans (if_pos rfl)
  have others (other : CoreReg) (hne : other ≠ reg) := (regGet_coreSet reg other hv s.core).trans (if_neg hne)
  exact ⟨{ s with core := coreSet reg v s.core }, rfl, rfl, coreSet_script reg v s.core, rfl, exec_coreGetreg_of_regGet written,
    fun _ => mem_coreSet_held, others⟩

end Sys2Proof.Machine

/-! SUPPORT. The CPU adapter family (44_cpu_adapter.md R160 to R171): which transaction a pin word is, what each transaction does to the
state, and the adapter's tick as the transaction of one fetched word. -/
namespace Sys2Proof.Machine

/-! The condition of each transaction (R93, R163 to R168). -/

/-- R93, the rows in priority order by their masks. -/
theorem classify_eq (p : PinWord) : classify p =
    if p &&& 0xA000000#64 = 0xA000000#64 then .memRead
    else if p &&& 0x12000000#64 = 0x12000000#64 then .memWrite
    else if p &&& 0x5000000#64 = 0x5000000#64 then .intAck
    else if p &&& 0xC000000#64 = 0xC000000#64 then .ioRead
    else if p &&& 0x14000000#64 = 0x14000000#64 then .ioWrite
    else .busIdle := by
  simp only [classify, rowMatches, beq_iff_eq]
  rfl

theorem decodePin_of_classify {p : PinWord} {t : Transaction} (h : classify p = t) :
    decodePin p = t.toInstr (pinCtl p) (pinGetData p) (pinGetAddr p) := by
  rw [decodePin_eq_toInstr, h]

/-! The effect of each transaction. -/

/-- Settles O15: MEM_READ is the first row, and placing the byte replaces the data field alone. -/
theorem memReadTransaction : Obligations.MemReadTransaction := by
  refine ⟨fun p hrow => decodePin_of_classify (t := .memRead) ?_, fun s ctl data addr => ?_⟩
  · rw [classify_eq, if_pos hrow]
  · simp only [exec, execMemRead, serveMemRead, placeData_pinJoin, pinGetAddr_pinJoin]

/-- Settles O16: the store is Memory's write of the data field at the word's address. -/
theorem memWriteTransaction : Obligations.MemWriteTransaction := by
  refine ⟨fun p hrow hread => decodePin_of_classify (t := .memWrite) ?_, fun s ctl data addr => ?_⟩
  · rw [classify_eq, if_neg hread, if_pos hrow]
  · have stored : serveMemWrite (pinJoin ctl data addr) s =
        { s with pins := pinJoin ctl data addr, mem := memPut s.mem addr data } := by
      simp only [serveMemWrite, pinGetAddr_pinJoin, pinGetData_pinJoin]
    exact ⟨_, congrArg Host.Outcome.next stored, rfl, fun b => memGet_memPut s.mem addr b data⟩

/-- Settles O17: the acknowledge byte is placed, and nothing is asked. -/
theorem intAckTransaction : Obligations.IntAckTransaction := by
  refine ⟨fun p hrow hread hwrite => decodePin_of_classify (t := .intAck) ?_, fun s ctl data addr => ?_⟩
  · rw [classify_eq, if_neg hread, if_neg hwrite, if_pos hrow]
  · simp only [exec, execIntAck, serveIntAck, placeData_pinJoin, acknowledgeByte, floatBus]

/-- R142, R191: where every device is the controller a port read finds the floating bus, whether a device covers the address or not. -/
theorem portRead_fst_of_ula {s : State} (h : ∀ e ∈ s.ioreg, e.2 = .ula) (a : Addr) : (portRead a s).1 = 0xFF := by
  rcases selectDevice_cases a s with ⟨_, hsel⟩ | ⟨e, he, _, hsel⟩
  · rw [portRead_of_none hsel]
    rfl
  · rw [portRead_of_selected hsel, h e he]
    rfl

theorem serveIoRead_pinJoin (ctl : BitVec 40) (data : Byte) (addr : Addr) (s : State) :
    serveIoRead (pinJoin ctl data addr) s =
      { (portRead addr s).2 with result := s.result, pins := pinJoin ctl (portRead addr s).1 addr } := by
  rw [← portRead_result addr s, serveIoRead, placeData_pinJoin, pinGetAddr_pinJoin]

/-- Settles O18: the transaction is the registry's read with the byte placed on the data field instead of returned. -/
theorem ioReadTransaction : Obligations.IoReadTransaction := by
  refine ⟨fun p hrow hread hwrite hack => decodePin_of_classify (t := .ioRead) ?_, fun s ctl data addr => ?_⟩
  · rw [classify_eq, if_neg hread, if_neg hwrite, if_neg hack, if_pos hrow]
  · exact ⟨_, (portRead addr s).1, rfl, rfl, congrArg Host.Outcome.next (serveIoRead_pinJoin ctl data addr s),
      fun hula => portRead_fst_of_ula hula addr⟩

/-- R143, R190: with the controller alone under 0x0001 a port write sets BORDER at an even address and does nothing at an odd one. -/
theorem portWrite_ula_alone {s : State} (h : s.ioreg = [(0x0001, .ula)]) (a : Addr) (v : Byte) :
    portWrite a v s = if a.toNat % 2 = 0 then { s with border := v.extractLsb' 0 3 } else s := by
  rw [portWrite, selectDevice_singleton h]
  by_cases heven : a.toNat % 2 = 0
  · rw [if_pos ((covers_ulaMask_iff a).2 heven), if_pos heven]
    rfl
  · rw [if_neg (mt (covers_ulaMask_iff a).1 heven), if_neg heven]

theorem serveIoWrite_pinJoin (ctl : BitVec 40) (data : Byte) (addr : Addr) (s : State) :
    serveIoWrite (pinJoin ctl data addr) s = { portWrite addr data s with pins := pinJoin ctl data addr } := by
  rw [serveIoWrite, pinGetAddr_pinJoin, pinGetData_pinJoin]

/-- Settles O19: the transaction is the registry's write of the data field, and the word stays. -/
theorem ioWriteTransaction : Obligations.IoWriteTransaction := by
  refine ⟨fun p hrow hread hwrite hack hin => decodePin_of_classify (t := .ioWrite) ?_, fun s ctl data addr => ?_⟩
  · rw [classify_eq, if_neg hread, if_neg hwrite, if_neg hack, if_neg hin, if_pos hrow]
  · exact ⟨_, rfl, congrArg Host.Outcome.next (serveIoWrite_pinJoin ctl data addr s),
      fun halone => portWrite_ula_alone halone addr data⟩

/-- Settles O20: no row matches, and the word is stored as it is. -/
theorem busIdleTransaction : Obligations.BusIdleTransaction := by
  refine ⟨fun p hread hwrite hack hin hout => decodePin_of_classify (t := .busIdle) ?_, fun _ _ _ _ => rfl⟩
  rw [classify_eq, if_neg hread, if_neg hwrite, if_neg hack, if_neg hin, if_neg hout]

/-! The adapter's tick (R160, R161) and the T-state around it (R181, R240). -/

theorem maskINT_bit {i : Nat} (hi : i < 64) : maskINT.getLsbD i = decide (i = 30) :=
  (by decide : ∀ i : Fin 64, maskINT.getLsbD i = decide (i.val = 30)) ⟨i, hi⟩

/-- R161: bit 30 of the merged word is the latch, every other bit is that of PINS. -/
theorem mergeInt_bit (p : PinWord) (latch : Bool) {i : Nat} (hi : i < 64) :
    (mergeInt p latch).getLsbD i = if i = 30 then latch else p.getLsbD i := by
  have cleared : (clearFlag p maskINT).getLsbD i = (p.getLsbD i && !decide (i = 30)) := by
    simp only [clearFlag, BitVec.getLsbD_and, BitVec.getLsbD_not, maskINT_bit hi, hi, decide_true, Bool.true_and]
  unfold mergeInt
  cases latch
  · rw [if_neg Bool.false_ne_true, cleared]
    by_cases hbit : i = 30 <;> simp [hbit]
  · rw [if_pos rfl, setFlag, BitVec.getLsbD_or, cleared, maskINT_bit hi]
    by_cases hbit : i = 30 <;> simp [hbit]

/-- R162 to R168: what the transaction of a word can change, by the law of each field it leaves alone. -/
theorem resolve_frame (p : PinWord) (s : State) : resolve p s =
    { s with
      pins := (resolve p s).pins, mem := (resolve p s).mem, border := (resolve p s).border, free := (resolve p s).free,
      devs := (resolve p s).devs } := by
  apply State.ext <;> simp

/-- Settles O21: the fetch advances CORE on the merged word, and the transaction of the word returned changes no more than its frame. -/
theorem adapterTickRunsOneTransaction : Obligations.AdapterTickRunsOneTransaction := fun s =>
  ⟨mergeInt s.pins s.intLatch, adapterTick s, fun _ hi => mergeInt_bit s.pins s.intLatch hi, rfl, exec_fetchWord s,
    resolve_frame (fetchWord s).1 (fetchWord s).2, resolve_pins_parts (fetchWord s).1 (fetchWord s).2⟩

/-- Settles O22: SET_PC stores the word of the redirect that CORE_PREFETCH returns. -/
theorem setIntAndSetPc : Obligations.SetIntAndSetPc := fun s _ a =>
  ⟨rfl, _, (coreRedirect a s.core).2, rfl, rfl, rfl⟩

/-- Settles O42: a step of the run loop is the controller's tick, which begins with the adapter's, and the end of the T-state, by the place
in the batch. -/
theorem stepRunsFetchedTransaction : Obligations.StepRunsFetchedTransaction := by
  intro s hrun
  have position : (controllerTick s).batchPos = s.batchPos := controllerTick_batchPos s
  have config : (controllerTick s).cfg = s.cfg := controllerTick_cfg s
  refine ⟨adapterTick s, controllerTick s, exec_fetchWord s, rfl, rfl, step_running hrun, rfl, fun hinside => ?_, fun hlast => ?_⟩
  · exact closeTState_inside (by rwa [position, config])
  · exact closeTState_last (by rwa [position, config])

end Sys2Proof.Machine

/-! SUPPORT. The video-timing family (45_video_timing.md R180 to R196): one tick of the controller in the fields it writes, what the
T-state count says of raster, field and flash, and the interrupt window. -/
namespace Sys2Proof.Machine

/-- Settles O11: both answers are the controller's own, and no address is looked at. -/
theorem controllerPortOperations : Obligations.ControllerPortOperations := fun _ _ _ => ⟨rfl, rfl⟩

/-! One tick (R181). -/

/-- R181 steps 3 to 5: what the controller can change after the adapter's tick, by the law of each field it leaves alone. -/
theorem controllerSteps_frame (s : State) : controllerSteps s =
    { s with
      fb := (controllerSteps s).fb, intLatch := (controllerSteps s).intLatch, lcyc := (controllerSteps s).lcyc,
      line := (controllerSteps s).line, field := (controllerSteps s).field, flashCtr := (controllerSteps s).flashCtr,
      flashInv := (controllerSteps s).flashInv } := by
  apply State.ext <;> simp

/-- R182: FB after a tick is FB after its cell, forwarded on the state that the adapter's tick left. -/
theorem controllerTick_fb (s : State) : (controllerTick s).fb = (forwardCell (adapterTick s)).fb := by
  simp [controllerTick, controllerSteps]

theorem forwardCell_of_screen {s : State} (hforwards : forwards s = true) (hscreen : inScreen s = true) :
    forwardCell s = screenCell s := by
  rw [forwardCell, if_pos hforwards, if_pos hscreen]

theorem forwardCell_of_border {s : State} (hforwards : forwards s = true) (hborder : ¬ inScreen s = true) :
    forwardCell s = borderCell s := by
  rw [forwardCell, if_pos hforwards, if_neg hborder]

theorem forwardCell_of_none {s : State} (h : ¬ forwards s = true) : forwardCell s = s := if_neg h

/-- R181 step 1: the adapter's tick leaves the raster, so the cell forwarded is that of the position the tick began with. -/
theorem forwards_adapterTick_iff (s : State) : forwards (adapterTick s) = true ↔ forwards s = true := by
  simp [forwards_iff]

theorem inScreen_adapterTick_iff (s : State) : inScreen (adapterTick s) = true ↔ inScreen s = true := by
  simp [inScreen_iff]

/-- Settles O23: the cell is forwarded on the state of the adapter's tick, at the position the tick began with. -/
theorem controllerTickForwardsCell : Obligations.ControllerTickForwardsCell := by
  intro s
  refine ⟨adapterTick s, controllerTick s, rfl, rfl, controllerSteps_frame (adapterTick s), ?_⟩
  have hline : (adapterTick s).line = s.line := adapterTick_line s
  have hcolumn : column (adapterTick s) = s.lcyc.toNat / 4 := by rw [column, adapterTick_lcyc]
  have hcfg : (adapterTick s).cfg = s.cfg := adapterTick_cfg s
  rw [controllerTick_fb]
  split_ifs with hforwards hscreen
  · have hcell := forwardCell_of_screen ((forwards_adapterTick_iff s).2 ((forwards_iff s).2 hforwards))
      ((inScreen_adapterTick_iff s).2 ((inScreen_iff s).2 hscreen))
    rw [hcell, screenCell, hline, hcolumn, hcfg]
    exact ⟨_, rfl, rfl⟩
  · have hcell := forwardCell_of_border ((forwards_adapterTick_iff s).2 ((forwards_iff s).2 hforwards))
      (mt (inScreen_adapterTick_iff s).1 (mt (inScreen_iff s).1 hscreen))
    rw [hcell, borderCell, hline, hcolumn]
    exact ⟨_, rfl, rfl⟩
  · rw [forwardCell_of_none (mt (forwards_adapterTick_iff s).1 (mt (forwards_iff s).1 hforwards)), adapterTick_fb]

/-- Settles O24: the tick's two comparisons exclude each other, as INT_LEN is not 0. -/
theorem controllerTickTimesInterrupt : Obligations.ControllerTickTimesInterrupt := by
  intro s
  refine ⟨controllerTick s, rfl, fun hline hlcyc => ?_, fun hline hlcyc => ?_, fun helse => ?_⟩
  · rw [controllerTick_latch, if_pos ⟨hline, hlcyc⟩]
  · have past_start : s.lcyc.toNat ≠ s.cfg.intStart := by omega
    rw [controllerTick_latch, if_neg fun h => past_start h.2, intLen, if_pos ⟨hline, hlcyc⟩]
  · rw [controllerTick_latch, if_neg fun h => helse ⟨h.1, .inl h.2⟩, intLen, if_neg fun h => helse ⟨h.1, .inr h.2⟩]

/-- Settles O25: the raster after a tick is the advance of the raster before it. -/
theorem controllerTickAdvancesRaster : Obligations.ControllerTickAdvancesRaster := by
  intro s hline hlcyc hflash hflash'
  obtain ⟨tick_lcyc, tick_line, tick_field, tick_flashCtr, tick_flashInv⟩ := controllerTick_raster s
  obtain ⟨advance_lcyc, advance_line⟩ := advance_raster hline hlcyc
  refine ⟨controllerTick s, rfl, by rw [tick_lcyc, advance_lcyc], by rw [tick_line, advance_line], ?_⟩
  rw [tick_field, tick_flashCtr, tick_flashInv]
  exact advance_field hline hlcyc hflash hflash'

/-! Raster, field and flash as functions of the T-state count (R193, R196). -/

theorem bool_toNat_not (b : Bool) : (!b).toNat = 1 - b.toNat := by cases b <;> rfl

theorem bool_eq_of_toNat_eq : ∀ {a b : Bool}, a.toNat = b.toNat → a = b := by decide

/-- R193: FIELD, FLASH_CTR and FLASH_INV are those of field number `f`, counted from 0. -/
def FlagsOfField (f : Nat) (s : State) : Prop :=
  s.field.toNat = f % 2 ∧ s.flashCtr.toNat = 16 - f % 16 ∧ s.flashInv.toNat = f / 16 % 2

/-- R196: the phase is the position, and the flags of the field, of the T-state count. -/
theorem phase_iff {s : State} :
    Phase s ↔ rasterPos s = s.tstates % 69888 ∧ s.lcyc.toNat < 224 ∧ FlagsOfField (s.tstates / 69888) s :=
  ⟨fun ⟨raster, lcyc, field, flashCtr, flashInv⟩ => ⟨raster, lcyc, field, flashCtr, flashInv⟩,
    fun ⟨raster, lcyc, field, flashCtr, flashInv⟩ => ⟨raster, lcyc, field, flashCtr, flashInv⟩⟩

theorem Phase.rasterInRange {s : State} (h : Phase s) : RasterInRange s := by
  obtain ⟨hraster, hlcyc, _⟩ := h
  exact ⟨by omega, hlcyc⟩

theorem tick_flags_eq_advance (s : State) :
    (tick s).field = (advance s).field ∧ (tick s).flashCtr = (advance s).flashCtr ∧ (tick s).flashInv = (advance s).flashInv := by
  obtain ⟨_, _, hfield, hflashCtr, hflashInv⟩ := controllerTick_raster s
  rw [tick, countTick]
  exact ⟨hfield, hflashCtr, hflashInv⟩

/-- R188: the tick that ends a field takes the flags to those of the next, FLASH_CTR reloading where the field number reaches a
multiple of 16. -/
theorem tick_flagsOfField {s : State} {f : Nat} (hrange : RasterInRange s) (h : FlagsOfField f s) :
    FlagsOfField (if rasterPos s + 1 = 69888 then f + 1 else f) (tick s) := by
  obtain ⟨hline, hlcyc⟩ := hrange
  obtain ⟨hfield, hflashCtr, hflashInv⟩ := h
  obtain ⟨tick_field, tick_flashCtr, tick_flashInv⟩ := tick_flags_eq_advance s
  have field_ends : s.lcyc.toNat + 1 = 224 ∧ s.line.toNat + 1 = 312 ↔ rasterPos s + 1 = 69888 := by
    unfold rasterPos
    omega
  have flags := advance_field hline hlcyc (by omega) (by omega)
  simp only [field_ends] at flags
  rw [FlagsOfField, tick_field, tick_flashCtr, tick_flashInv]
  split_ifs at flags ⊢ with hend hreload <;> obtain ⟨field', flashCtr', flashInv'⟩ := flags <;>
    rw [field', flashCtr', flashInv']
  · rw [bool_toNat_not, bool_toNat_not]
    omega
  · rw [bool_toNat_not]
    omega
  · exact ⟨hfield, hflashCtr, hflashInv⟩

/-- R196: position and field number go on with the count. -/
theorem tick_phase {s : State} (h : Phase s) : Phase (tick s) := by
  have hrange := h.rasterInRange
  obtain ⟨hpos, -, hflags⟩ := phase_iff.1 h
  obtain ⟨⟨-, tick_lcyc⟩, tick_pos⟩ := tick_rasterPos hrange
  have count : (tick s).tstates = s.tstates + 1 := congrArg (· + 1) (controllerTick_tstates s)
  have field_number :
      (if rasterPos s + 1 = 69888 then s.tstates / 69888 + 1 else s.tstates / 69888) = (tick s).tstates / 69888 := by
    split_ifs <;> omega
  exact phase_iff.2 ⟨by omega, tick_lcyc, field_number ▸ tick_flagsOfField hrange hflags⟩

theorem ticks_phase {s : State} (h : Phase s) (n : Nat) : Phase (ticks n s) := by
  induction n generalizing s with
  | zero => exact h
  | succ n ih => exact ih (tick_phase h)

/-- The end of a T-state counts it, and moves nothing else that the phase is about. -/
theorem closeTState_phase {s : State} (h : Phase (countTick s)) : Phase (closeTState s) := by
  obtain ⟨_, _, _, _, _, _, hclose⟩ := closeTState_frame s
  rw [hclose]
  exact { h with }

/-- Settles O52: a step of the run loop is a counted tick. -/
theorem stepKeepsPhase : Obligations.StepKeepsPhase := by
  intro s t hrun hphase h
  rw [step_running hrun] at h
  obtain rfl := Host.Outcome.next.inj h
  obtain ⟨_, _, _, _, _, _, hclose⟩ := closeTState_frame (controllerTick s)
  refine ⟨closeTState_phase (tick_phase hphase), ?_⟩
  rw [hclose]
  exact congrArg (· + 1) (controllerTick_tstates s)

/-- R196: equal T-state counts modulo a field are equal raster positions. -/
theorem Phase.raster_eq {s t : State} (hs : Phase s) (ht : Phase t) (h : t.tstates % 69888 = s.tstates % 69888) :
    t.line = s.line ∧ t.lcyc = s.lcyc := by
  obtain ⟨sraster, slcyc, _⟩ := hs
  obtain ⟨traster, tlcyc, _⟩ := ht
  have hline : t.line.toNat = s.line.toNat := by omega
  have hlcyc : t.lcyc.toNat = s.lcyc.toNat := by omega
  exact ⟨BitVec.eq_of_toNat_eq hline, BitVec.eq_of_toNat_eq hlcyc⟩

/-- Settles O53: n fields later the state is in phase with a field number up by n. -/
theorem fieldsAdvanceFlash : Obligations.FieldsAdvanceFlash := by
  intro s n hs
  have ht : Phase (ticks (n * frameT) s) := ticks_phase hs _
  have count : (ticks (n * frameT) s).tstates = s.tstates + n * 69888 := ticks_tstates _ s
  obtain ⟨hline, hlcyc⟩ := hs.raster_eq ht (by omega)
  obtain ⟨_, _, sfield, sflashCtr, sflashInv⟩ := phase_iff.1 hs
  obtain ⟨_, _, tfield, tflashCtr, tflashInv⟩ := phase_iff.1 ht
  have fields : (ticks (n * frameT) s).tstates / 69888 = s.tstates / 69888 + n := by omega
  rw [fields] at tfield tflashCtr tflashInv
  refine ⟨_, rfl, ht, count, hline, hlcyc, ?_, fun hfirst hn => bool_eq_of_toNat_eq ?_⟩
  · rintro rfl
    refine ⟨bool_eq_of_toNat_eq ?_, BitVec.eq_of_toNat_eq ?_, bool_eq_of_toNat_eq ?_⟩
    · rw [bool_toNat_not]
      omega
    · omega
    · omega
  · omega

/-! The interrupt window (R192, R284). -/

/-- R7: the window ends before line 0 does. -/
theorem configOk_intWindow {c : Config} (h : configOk c = true) : c.intStart + 32 < 224 := by
  simp only [configOk, Bool.and_eq_true, decide_eq_true_eq] at h
  obtain ⟨⟨⟨_, hwindow⟩, _⟩, _⟩ := h
  exact hwindow

/-- R188: one tick shifts the window. -/
theorem controllerTick_window_iff {s : State} (hrange : RasterInRange s) (hcfg : configOk s.cfg = true) :
    ((controllerTick s).line = 0 ∧ s.cfg.intStart < (controllerTick s).lcyc.toNat
        ∧ (controllerTick s).lcyc.toNat ≤ s.cfg.intStart + 32)
      ↔ s.line = 0 ∧ s.cfg.intStart ≤ s.lcyc.toNat ∧ s.lcyc.toNat < s.cfg.intStart + 32 := by
  obtain ⟨hline, hlcyc⟩ := hrange
  obtain ⟨tick_lcyc, tick_line, _⟩ := controllerTick_raster s
  obtain ⟨advance_lcyc, advance_line⟩ := advance_raster hline hlcyc
  have hwindow := configOk_intWindow hcfg
  have line_zero_iff : ∀ l : BitVec 9, l = 0 ↔ l.toNat = 0 := fun _ => BitVec.toNat_inj.symm
  rw [line_zero_iff, line_zero_iff, tick_lcyc, tick_line, advance_lcyc, advance_line]
  split_ifs <;> omega

/-- R187: the two comparisons move the latch's window on by one T-state. -/
theorem controllerTick_latch_of_window {s : State} (h : LatchWindow s) : (controllerTick s).intLatch =
    decide (s.line = 0 ∧ s.cfg.intStart ≤ s.lcyc.toNat ∧ s.lcyc.toNat < s.cfg.intStart + 32) := by
  rw [controllerTick_latch, h, intLen]
  split_ifs with hset hclear
  · exact (decide_eq_true ⟨hset.1, by omega, by omega⟩).symm
  · exact (decide_eq_false fun hwindow => by omega).symm
  · refine decide_eq_decide.2 (and_congr_right fun hline => ?_)
    have not_set : s.lcyc.toNat ≠ s.cfg.intStart := fun hlcyc => hset ⟨hline, hlcyc⟩
    have not_cleared : s.lcyc.toNat ≠ s.cfg.intStart + 32 := fun hlcyc => hclear ⟨hline, hlcyc⟩
    omega

theorem controllerTick_latchWindow {s : State} (hrange : RasterInRange s) (hcfg : configOk s.cfg = true) (h : LatchWindow s) :
    LatchWindow (controllerTick s) := by
  rw [LatchWindow, controllerTick_cfg, controllerTick_latch_of_window h]
  exact decide_eq_decide.2 (controllerTick_window_iff hrange hcfg).symm

/-- The end of a T-state moves neither the latch nor the raster. -/
theorem closeTState_latchWindow {s : State} (h : LatchWindow s) : LatchWindow (closeTState s) := by
  obtain ⟨_, _, _, _, _, _, hclose⟩ := closeTState_frame s
  rw [hclose]
  exact h

/-- Settles O54: the tick moves the window with the raster, and the word of a tick is merged with the latch of the tick before. -/
theorem stepKeepsLatchWindow : Obligations.StepKeepsLatchWindow := by
  intro s t hrun hinv hlatch h
  rw [step_running hrun] at h
  obtain rfl := Host.Outcome.next.inj h
  refine ⟨closeTState_latchWindow (controllerTick_latchWindow ⟨hinv.line, hinv.lcyc⟩ hrun.1 hlatch), ?_⟩
  rw [mergeInt_bit _ _ (by decide), if_pos rfl, hlatch, decide_eq_true_iff]
  rfl

end Sys2Proof.Machine

/-! SUPPORT. The rasterizer family (46_crt_rasterizer.md R210 to R221): what a call leaves in every cell of FB, the call outside the geometry,
the default colour functions and their lanes, and the refresh. -/
namespace Sys2Proof.Machine

/-! One call of the rasterizer (R211, R212). -/

theorem updatePixels_frame (line column : Nat) (display attr : Byte) (s : State) : updatePixels line column display attr s =
    { s with fb := (updatePixels line column display attr s).fb } := by
  apply State.ext <;> simp

/-- R212. -/
theorem updatePixels_of_outside {s : State} {line column : Nat} (display attr : Byte)
    (hout : ¬ inGeometry s.cfg line column = true) : updatePixels line column display attr s = s := if_neg hout

/-- R211 steps 2 to 4. -/
theorem updatePixels_fb_of_inside {s : State} {line column : Nat} (display attr : Byte)
    (hin : inGeometry s.cfg line column = true) : (updatePixels line column display attr s).fb =
      drawCells s.cfg (ownRow s.cfg s.field line) (adjRow s.cfg s.field line) (8 * column * s.cfg.pixelRepeat)
        (pixelColour s.cfg s.flashInv display attr) (attrBright attr) (8 * s.cfg.pixelRepeat) s.fb := by
  rw [updatePixels, if_pos hin]

/-- R213: to swap ink and paper is to draw the inverted bit, which is how the model does it. -/
theorem colourIndex_eq (flashInv : Bool) (attr : Byte) (bit : Bool) : colourIndex flashInv attr bit =
    if bit then (if attrFlash attr && flashInv then attrPaper attr else attrInk attr)
    else (if attrFlash attr && flashInv then attrInk attr else attrPaper attr) := by
  unfold colourIndex
  cases bit <;> cases attrFlash attr && flashInv <;> rfl

/-- R210: the pixel of a cell, counted from the call's first cell or from the row's. -/
theorem pixel_of_cell (x column pixelRepeat : Nat) :
    (x - 8 * column * pixelRepeat) / pixelRepeat = x / pixelRepeat - 8 * column := by
  rw [Nat.mul_comm (8 * column)]
  exact Nat.sub_mul_div x pixelRepeat (8 * column)

/-- R210: the cells of a column end where those of the next begin. -/
theorem next_column_cell (column pixelRepeat : Nat) :
    8 * column * pixelRepeat + 8 * pixelRepeat = 8 * (column + 1) * pixelRepeat := by
  rw [← Nat.add_mul, Nat.mul_succ]

/-- R211 step 4: what a call inside the geometry leaves in every cell. -/
theorem fbGet_updatePixels_of_inside {s : State} {line column : Nat} (display attr : Byte)
    (hin : inGeometry s.cfg line column = true) (y x : Nat) : fbGet (updatePixels line column display attr s).fb y x =
      if 8 * column * s.cfg.pixelRepeat ≤ x ∧ x < 8 * (column + 1) * s.cfg.pixelRepeat then
        if y = ownRow s.cfg s.field line then
          decay s.cfg (fbGet s.fb y x)
            ||| pixelColour s.cfg s.flashInv display attr (x / s.cfg.pixelRepeat - 8 * column)
        else if y = adjRow s.cfg s.field line then
          bleed s.cfg (pixelColour s.cfg s.flashInv display attr (x / s.cfg.pixelRepeat - 8 * column)) (attrBright attr)
        else fbGet s.fb y x
      else fbGet s.fb y x := by
  rw [updatePixels_fb_of_inside display attr hin, fbGet_drawCells s.cfg (ownRow_ne_adjRow s.cfg s.field line),
    next_column_cell, pixel_of_cell]
  split_ifs with hcells hown hadj
  · rw [hown]
  · rfl
  · rfl
  · rfl

/-- Settles O28: the cells of a call inside the geometry are written out, and the colour of a pixel is that of its swapped index. -/
theorem crtUpdateDrawsEightPixels : Obligations.CrtUpdateDrawsEightPixels := by
  intro s line column display attr
  refine ⟨updatePixels line column display attr s, rfl, updatePixels_frame line column display attr s, fun hin y x => ?_⟩
  rw [fbGet_updatePixels_of_inside display attr ((inGeometry_iff s.cfg line column).2 hin), pixelColour, colourIndex_eq]
  rfl

/-- Settles O29: the first step of a call returns. -/
theorem crtUpdateIgnoresOutside : Obligations.CrtUpdateIgnoresOutside := fun _ _ _ display attr hout =>
  congrArg Host.Outcome.next (updatePixels_of_outside display attr (mt (inGeometry_iff _ _ _).1 hout))

/-! The default colour functions (R214 to R216). -/

theorem decay_standardConfig (v : Sample) : decay standardConfig v = (v >>> 1) &&& 0x7F7F7F7F#32 := rfl

/-- R216: no exception is listed at the defaults. -/
theorem bleed_standardConfig_normal (v : Sample) :
    bleed standardConfig v false = ((v >>> 2) &&& 0x3F3F3F00#32) ||| 0x000000FF#32 := rfl

theorem bleed_standardConfig_bright (v : Sample) :
    bleed standardConfig v true = ((v >>> 1) &&& 0x7F7F7F00#32) ||| 0x000000FF#32 := rfl

/-- Settles O30: the sixteen entries of the palette one by one, and the rules of decay and bleed as they stand in the configuration. -/
theorem defaultColourFunctions : Obligations.DefaultColourFunctions :=
  ⟨by decide, fun v => ⟨decay_standardConfig v, bleed_standardConfig_normal v, bleed_standardConfig_bright v⟩⟩

/-! The lanes of a sample (R219). -/

/-- A shift moves no bit between lanes where the mask drops the bits that came from the lane above. -/
theorem lane_shift_mask {mask : Sample} {pos amount : Nat} (v : Sample) (hmask : mask.extractLsb' pos 8 = 0xFF#8 >>> amount) :
    ((v >>> amount) &&& mask).extractLsb' pos 8 = v.extractLsb' pos 8 >>> amount := by
  rw [BitVec.extractLsb'_and, hmask]
  ext i hi
  have hones : (0xFF#8).getLsbD (amount + i) = decide (amount + i < 8) := BitVec.getLsbD_allOnes
  simp [hones, Nat.add_left_comm pos, Bool.and_comm]

theorem lane_or_of_clear {force : Sample} {pos : Nat} (v : Sample) (hforce : force.extractLsb' pos 8 = 0) :
    (v ||| force).extractLsb' pos 8 = v.extractLsb' pos 8 := by
  rw [BitVec.extractLsb'_or, hforce]
  exact BitVec.or_zero

theorem lane_or_of_full {force : Sample} {pos : Nat} (v : Sample) (hforce : force.extractLsb' pos 8 = 0xFF) :
    (v ||| force).extractLsb' pos 8 = 0xFF := by
  rw [BitVec.extractLsb'_or, hforce]
  exact BitVec.or_allOnes

/-- R219: blending is lane by lane. -/
theorem decay_lane (v : Sample) {lane : Nat} (hlane : lane < 4) :
    (decay standardConfig v).extractLsb' (8 * lane) 8 = v.extractLsb' (8 * lane) 8 >>> 1 := by
  have hmask : ∀ lane < 4, (0x7F7F7F7F#32).extractLsb' (8 * lane) 8 = 0xFF#8 >>> 1 := by decide
  rw [decay_standardConfig, lane_shift_mask v (hmask lane hlane)]

/-- R219: a colour lane of the bleed is that lane of the colour, shifted. -/
theorem bleed_colour_lane (c : Sample) (bright : Bool) {lane : Nat} (hlane : 1 ≤ lane) (hlane' : lane < 4) :
    (bleed standardConfig c bright).extractLsb' (8 * lane) 8 = c.extractLsb' (8 * lane) 8 >>> (if bright then 1 else 2) := by
  have hnormal : ∀ lane < 4, 1 ≤ lane → (0x3F3F3F00#32).extractLsb' (8 * lane) 8 = 0xFF#8 >>> 2 := by decide
  have hbright : ∀ lane < 4, 1 ≤ lane → (0x7F7F7F00#32).extractLsb' (8 * lane) 8 = 0xFF#8 >>> 1 := by decide
  have hforce : ∀ lane < 4, 1 ≤ lane → (0x000000FF#32).extractLsb' (8 * lane) 8 = 0 := by decide
  cases bright with
  | false =>
    rw [bleed_standardConfig_normal, lane_or_of_clear _ (hforce lane hlane' hlane),
      lane_shift_mask c (hnormal lane hlane' hlane)]
    rfl
  | true =>
    rw [bleed_standardConfig_bright, lane_or_of_clear _ (hforce lane hlane' hlane),
      lane_shift_mask c (hbright lane hlane' hlane)]
    rfl

/-- R219: the alpha of a bleed is forced. -/
theorem bleed_alpha_lane (c : Sample) (bright : Bool) : (bleed standardConfig c bright).extractLsb' 0 8 = 0xFF := by
  have hforce : (0x000000FF#32).extractLsb' 0 8 = 0xFF := by decide
  cases bright with
  | false => exact lane_or_of_full _ hforce
  | true => exact lane_or_of_full _ hforce

/-- Settles O31: the lane of an OR is the OR of the lanes, and the masks keep the shifts inside their lanes. -/
theorem colourLanesIndependent : Obligations.ColourLanesIndependent := fun v c bright =>
  ⟨fun lane hlane => by rw [BitVec.extractLsb'_or, decay_lane v hlane],
    fun _ hlane hlane' => bleed_colour_lane c bright hlane hlane', bleed_alpha_lane c bright⟩

/-! The refresh (R221). -/

/-- Settles O32, which is the refresh as the model has it. -/
theorem refreshAppendsFrame : Obligations.RefreshAppendsFrame := fun _ => rfl

end Sys2Proof.Machine

/-! SUPPORT. The scheduler family (47_scheduler.md R240 to R248): the refresh cadence at a batch's end, the T-states of the run loop put
together to a batch, and when a step has no next state. -/
namespace Sys2Proof.Machine

/-! The refresh cadence (R242 to R245). -/

/-- R244: the boundary and the number of frames are those of the T-state count `n`. -/
def CadenceAt (n : Nat) (s : State) : Prop :=
  s.nextFrame = 69888 * (n / 69888 + 1) ∧ s.present.length = n / 69888

theorem cadence_iff {s : State} : Cadence s ↔ CadenceAt s.tstates s := Iff.rfl

theorem runCadence_iff {s : State} :
    RunCadence s ↔ s.batchPos ≤ s.tstates ∧ s.batchPos < batchT s.cfg ∧ CadenceAt (s.tstates - s.batchPos) s := Iff.rfl

/-- R245: BATCH is in its range by its type. -/
theorem batchT_range (c : Config) : 1 ≤ batchT c ∧ batchT c ≤ 69888 := ⟨Nat.succ_pos _, c.batch.isLt⟩

/-- R242, R243: at most one boundary lies between `n` and a T-state count no more than a frame later, so one frame test is enough. -/
theorem endBatch_cadence {n : Nat} {s : State} (h : CadenceAt n s) (hstart : n ≤ s.tstates) (hend : s.tstates ≤ n + 69888) :
    Cadence (endBatch s).2 := by
  obtain ⟨boundary, frames⟩ := h
  rw [endBatch_eq]
  by_cases hdue : s.nextFrame ≤ s.tstates
  · have crossed : s.tstates / 69888 = n / 69888 + 1 := by omega
    simp only [Cadence, if_pos hdue, List.length_append, List.length_singleton]
    exact ⟨by omega, by omega⟩
  · have same : s.tstates / 69888 = n / 69888 := by omega
    simp only [Cadence, if_neg hdue]
    exact ⟨by omega, by omega⟩

/-- R244: where a batch begins, the two forms of the cadence agree. -/
theorem Cadence.runCadence {s : State} (h : Cadence s) (hpos : s.batchPos = 0) : RunCadence s := by
  rw [RunCadence, hpos]
  exact ⟨Nat.zero_le _, Nat.succ_pos _, h⟩

/-- R244: inside a batch the count at which it began stays; its last T-state comes with the batch's end. -/
theorem closeTState_runCadence {s : State} (h : RunCadence s) : RunCadence (closeTState s) := by
  obtain ⟨hpos, hbatch, hat⟩ := runCadence_iff.1 h
  by_cases hinside : s.batchPos + 1 < batchT s.cfg
  · have began : s.tstates + 1 - (s.batchPos + 1) = s.tstates - s.batchPos := Nat.add_sub_add_right _ _ _
    rw [closeTState_inside hinside]
    exact runCadence_iff.2 ⟨Nat.succ_le_succ hpos, hinside, began ▸ hat⟩
  · have hframe : batchT s.cfg ≤ 69888 := (batchT_range s.cfg).2
    have started : s.tstates - s.batchPos ≤ s.tstates + 1 := by omega
    have within_frame : s.tstates + 1 ≤ s.tstates - s.batchPos + 69888 := by omega
    have cadence : Cadence (endBatch { s with tstates := s.tstates + 1, batchPos := 0 }).2 := endBatch_cadence hat started within_frame
    rw [closeTState_last (by omega)]
    exact Cadence.runCadence cadence (endBatch_batchPos _)

/-- Settles O55: a step of the run loop is a tick of the controller, which touches nothing of the cadence, and the end of the T-state. -/
theorem stepKeepsRunCadence : Obligations.StepKeepsRunCadence := by
  intro s t hrun hcadence h
  rw [step_running hrun] at h
  obtain rfl := Host.Outcome.next.inj h
  have ticked : RunCadence (controllerTick s) := by
    rwa [RunCadence, controllerTick_batchPos, controllerTick_tstates, controllerTick_cfg, controllerTick_nextFrame,
      controllerTick_present]
  exact closeTState_runCadence ticked

/-- Settles O35: a batch is no longer than a frame. -/
theorem batchKeepsCadence : Obligations.BatchKeepsCadence := by
  intro s hcadence
  have ⟨hmin, hmax⟩ := batchT_range s.cfg
  have count : (ticks (batchT s.cfg) s).tstates = s.tstates + batchT s.cfg := ticks_tstates _ s
  have at_end : CadenceAt s.tstates (ticks (batchT s.cfg) s) := by
    rw [CadenceAt, ticks_nextFrame, ticks_present]
    exact cadence_iff.1 hcadence
  have cadence : Cadence (runBatch s).2 := endBatch_cadence at_end (by omega) (by omega)
  have batch_count : (runBatch s).2.tstates = s.tstates + batchT s.cfg := (endBatch_tstates _).trans count
  exact ⟨_, rfl, cadence, batch_count, hmin, hmax⟩

/-! A step of the run loop, by the place in the batch (R240, R324). -/

/-- R240, R248: a batch's end in the run loop, on the state that its T-states left: the batch position starts again, and the quit sample
ends the run. -/
def endRunBatch (s : State) : State :=
  { (endBatch { s with batchPos := 0 }).2 with ended := (endBatch { s with batchPos := 0 }).1 }

theorem closeTState_endsBatch {s : State} (h : batchT s.cfg ≤ s.batchPos + 1) : closeTState s = endRunBatch (countTick s) :=
  closeTState_last h

theorem step_insideBatch {s : State} (hrun : Running s) (hinside : s.batchPos + 1 < batchT s.cfg) :
    step s = .next { tick s with batchPos := s.batchPos + 1 } := by
  have position : (controllerTick s).batchPos = s.batchPos := controllerTick_batchPos s
  have config : (controllerTick s).cfg = s.cfg := controllerTick_cfg s
  rw [step_running hrun, closeTState_inside (by rwa [position, config]), position]
  rfl

theorem step_endsBatch {s : State} (hrun : Running s) (hlast : batchT s.cfg ≤ s.batchPos + 1) :
    step s = .next (endRunBatch (tick s)) := by
  have position : (controllerTick s).batchPos = s.batchPos := controllerTick_batchPos s
  have config : (controllerTick s).cfg = s.cfg := controllerTick_cfg s
  rw [step_running hrun, closeTState_endsBatch (by rwa [position, config]), tick]

/-! BATCH steps are one batch (R240, R324). -/

theorem portRead_setBatchPos (a : Addr) (k : Nat) (s : State) :
    portRead a { s with batchPos := k } = ((portRead a s).1, { (portRead a s).2 with batchPos := k }) := by
  cases hsel : (selectDevice a s).1 with
  | none =>
    rw [portRead_of_none hsel, portRead_of_none (s := { s with batchPos := k }) hsel]
    rfl
  | some d =>
    rw [portRead_of_selected hsel, portRead_of_selected (s := { s with batchPos := k }) hsel]
    cases d <;> rfl

theorem portWrite_setBatchPos (a : Addr) (v : Byte) (k : Nat) (s : State) :
    portWrite a v { s with batchPos := k } = { portWrite a v s with batchPos := k } := by
  cases hsel : (selectDevice a s).1 with
  | none =>
    rw [portWrite_of_none hsel, portWrite_of_none (s := { s with batchPos := k }) hsel]
    rfl
  | some d =>
    rw [portWrite_of_selected hsel, portWrite_of_selected (s := { s with batchPos := k }) hsel]
    cases d <;> rfl

/-- A transaction neither reads nor writes the place in the batch (R162 to R168). -/
theorem resolve_setBatchPos (p : PinWord) (k : Nat) (s : State) :
    resolve p { s with batchPos := k } = { resolve p s with batchPos := k } := by
  unfold resolve
  cases classify p
  case ioRead => rw [serveIoRead, serveIoRead, portRead_setBatchPos]
  case ioWrite => rw [serveIoWrite, serveIoWrite, portWrite_setBatchPos]
  -- The other transactions are one update of other fields.
  all_goals rfl

theorem updatePixels_setBatchPos (line column : Nat) (display attr : Byte) (k : Nat) (s : State) :
    updatePixels line column display attr { s with batchPos := k } = { updatePixels line column display attr s with batchPos := k } := by
  unfold updatePixels
  split_ifs <;> rfl

theorem forwardCell_setBatchPos (k : Nat) (s : State) :
    forwardCell { s with batchPos := k } = { forwardCell s with batchPos := k } := by
  by_cases hforwards : forwards s = true
  · by_cases hscreen : inScreen s = true
    · rw [forwardCell_of_screen hforwards hscreen, forwardCell_of_screen (s := { s with batchPos := k }) hforwards hscreen]
      exact updatePixels_setBatchPos _ _ _ _ k s
    · rw [forwardCell_of_border hforwards hscreen, forwardCell_of_border (s := { s with batchPos := k }) hforwards hscreen]
      exact updatePixels_setBatchPos _ _ _ _ k s
  · rw [forwardCell_of_none hforwards, forwardCell_of_none (s := { s with batchPos := k }) hforwards]

theorem interruptStep_setBatchPos (k : Nat) (s : State) :
    interruptStep { s with batchPos := k } = { interruptStep s with batchPos := k } := by
  unfold interruptStep
  split_ifs <;> rfl

theorem advance_setBatchPos (k : Nat) (s : State) : advance { s with batchPos := k } = { advance s with batchPos := k } := by
  unfold advance endField
  split_ifs <;> rfl

/-- A T-state neither reads nor writes the place in the batch (R241). -/
theorem tick_setBatchPos (k : Nat) (s : State) : tick { s with batchPos := k } = { tick s with batchPos := k } := by
  have fetched : adapterTick { s with batchPos := k } = { adapterTick s with batchPos := k } :=
    resolve_setBatchPos (fetchWord s).1 k (fetchWord s).2
  simp only [tick, controllerTick, controllerSteps, fetched, forwardCell_setBatchPos, interruptStep_setBatchPos, advance_setBatchPos,
    countTick]

theorem ticks_setBatchPos (n k : Nat) (s : State) : ticks n { s with batchPos := k } = { ticks n s with batchPos := k } := by
  induction n generalizing s with
  | zero => rfl
  | succ n ih => rw [ticks, tick_setBatchPos, ih, ticks]

theorem run_succ_of_step {M : Host.Core} {n : Nat} {s t : M.State} (h : M.step s = .next t) : M.run (n + 1) s = M.run n t := by
  rw [Host.Core.run, h]

/-- From anywhere in a batch, the steps up to its end are as many T-states and the batch's end. -/
theorem run_toBatchEnd {n : Nat} {s : State} (hrun : Running s) (hend : s.batchPos + (n + 1) = batchT s.cfg) :
    Sys2Proof.core.run (n + 1) s = .next (endRunBatch (ticks (n + 1) s)) := by
  induction n generalizing s with
  | zero => exact run_succ_of_step (M := Sys2Proof.core) (step_endsBatch hrun (by omega))
  | succ n ih =>
    obtain ⟨hconfig, hcalls, hended⟩ := hrun
    have stepped := step_insideBatch ⟨hconfig, hcalls, hended⟩ (by omega)
    have running : Running { tick s with batchPos := s.batchPos + 1 } := ⟨by rwa [tick_cfg], by rwa [tick_calls], by rwa [tick_ended]⟩
    have rest : s.batchPos + 1 + (n + 1) = batchT (tick s).cfg := by rw [tick_cfg]; omega
    have ran := (run_succ_of_step (M := Sys2Proof.core) stepped).trans (ih running rest)
    rwa [ticks_setBatchPos] at ran

/-- Settles O36: from the start of a batch, what is left of it is all of it. -/
theorem stepsMakeOneBatch : Obligations.StepsMakeOneBatch := by
  intro s hrun hstart
  have whole : s.batchPos + (s.cfg.batch.val + 1) = batchT s.cfg := by rw [hstart, Nat.zero_add, batchT]
  have position : (ticks (batchT s.cfg) s).batchPos = 0 := by rw [ticks_batchPos, hstart]
  have restarted : { ticks (batchT s.cfg) s with batchPos := 0 } = ticks (batchT s.cfg) s := by rw [← position]
  have ended : endRunBatch (ticks (batchT s.cfg) s) = { (runBatch s).2 with ended := (runBatch s).1 } := by
    rw [endRunBatch, restarted, runBatch]
  refine ⟨_, (runBatch s).1, rfl, rfl, ?_⟩
  rw [← runBatch_result s]
  exact (run_toBatchEnd hrun whole).trans (congrArg Host.Outcome.next ended)

/-! The outcomes of a step (R248, R281). -/

/-- R132: a load completes or stops under one of its two names. -/
theorem loadImage_next_or_stops (source : List Byte) (dest : Addr) (length : Nat) (s : State) :
    (∃ t, loadImage source dest length s = .next t)
      ∨ loadImage source dest length s = .fault .loadError ∨ loadImage source dest length s = .refused .loadPastEnd := by
  by_cases hlen : length ≤ source.length
  · by_cases hend : dest.toNat + length ≤ memSize
    · exact .inl ⟨_, loadImage_copied hlen hend s⟩
    · exact .inr (.inr (loadImage_pastEnd hlen (by omega) s))
  · exact .inr (.inl (loadImage_short (by omega) dest s))

/-- R280, R281: every operation completes but a load, which may stop under one of its two names. -/
theorem exec_next_or_load_stops (i : Instr) (s : State) :
    (∃ t, exec i s = .next t) ∨ isLoad i = true ∧ (exec i s = .fault .loadError ∨ exec i s = .refused .loadPastEnd) := by
  cases i
  case memLoad | loadRom | loadScr => exact (loadImage_next_or_stops _ _ _ s).imp_right fun hstops => ⟨rfl, hstops⟩
  case loadSna b =>
    by_cases hshort : b.length < snaHeaderLen + snaRamLen
    · exact .inr ⟨rfl, .inl (if_pos hshort)⟩
    · exact .inl ⟨_, if_neg hshort⟩
  all_goals exact .inl ⟨_, rfl⟩

/-- Settles O44, by the branches of a step: a pending operation stops only as exec does. -/
theorem stepStopsOnlyForNamedReasons : Obligations.StepStopsOnlyForNamedReasons := by
  intro s
  refine ⟨fun hconfig => ?_, fun hconfig hended => ?_, fun hrun => ⟨_, step_running hrun⟩, fun i rest hconfig hended hissued => ?_⟩
  · simp only [step, hconfig, if_true]
  · simp [step, hconfig, hended]
  · rw [step_issued hconfig hended hissued]
    exact exec_next_or_load_stops i _

/-! SCHED_BATCH and SCHED_RUN (R240 to R248). -/

/-- R240: a SCHED_BATCH answers the state its batch leaves, with the quit sample as the value returned. -/
def returnSample (out : Bool × State) : Host.Outcome State Fault Refusal := .next { out.2 with result := .bit out.1 }

theorem exec_schedBatch (s : State) : exec .schedBatch s = returnSample (runBatch s) := rfl

/-- Settles O33: the batch's end in the fields it writes, on the state that BATCH T-states left. -/
theorem batchRunsTicksThenTests : Obligations.BatchRunsTicksThenTests := fun s =>
  ⟨ticks (batchT s.cfg) s, _, rfl, rfl, (exec_schedBatch s).trans (congrArg returnSample (endBatch_eq (ticks (batchT s.cfg) s)))⟩

/-- Settles O34: the loop's turn is a batch whose sample is not returned. -/
theorem runLoopRepeatsUntilQuit : Obligations.RunLoopRepeatsUntilQuit := by
  intro s
  refine ⟨_, (runBatch s).1, rfl, rfl, ?_⟩
  rw [← runBatch_result s]
  rfl

end Sys2Proof.Machine

/-! SUPPORT. The host family (48_host_interface.md R261 to R270; 60_exceptions.md R280, R281; 70_reset_and_hazards.md R311): what the loads
leave, first of all the registers of a snapshot, which operations may stop, and the values of reset. -/
namespace Sys2Proof.Machine

/-! The snapshot (R264 to R267). -/

/-- R103: a little-endian word is its two bytes joined, the second one on top. -/
theorem imageWord_eq_append (b : List Byte) (o : Nat) : imageWord b o = b.getD (o + 1) 0 ++ b.getD o 0 := by
  rw [BitVec.append_def, BitVec.shiftLeftZeroExtend_eq, BitVec.setWidth'_eq]
  exact BitVec.or_comm _ _

/-- R265: the register file a snapshot header describes; it has no PC. -/
def headerRegs (b : List Byte) (pc : BitVec 16) : CoreRegs where
  i := b.getD 0 0
  hlAlt := b.getD 2 0 ++ b.getD 1 0
  deAlt := b.getD 4 0 ++ b.getD 3 0
  bcAlt := b.getD 6 0 ++ b.getD 5 0
  afAlt := b.getD 8 0 ++ b.getD 7 0
  hl := b.getD 10 0 ++ b.getD 9 0
  de := b.getD 12 0 ++ b.getD 11 0
  bc := b.getD 14 0 ++ b.getD 13 0
  iy := b.getD 16 0 ++ b.getD 15 0
  ix := b.getD 18 0 ++ b.getD 17 0
  iff2 := (b.getD 19 0).getLsbD 2
  iff1 := (b.getD 19 0).getLsbD 2
  r := b.getD 20 0
  af := b.getD 22 0 ++ b.getD 21 0
  sp := b.getD 24 0 ++ b.getD 23 0
  im := b.getD 25 0
  pc := pc

/-- The writes of a header are the registers of its file. -/
theorem mem_snaRegisters_headerRegs (b : List Byte) (pc : BitVec 16) {reg : CoreReg} (h : reg ≠ .pc) :
    (reg, regGet reg (headerRegs b pc)) ∈ snaRegisters b := by
  cases reg
  case pc => exact absurd rfl h
  all_goals simp [snaRegisters, headerRegs, regGet, imageByte, imageWord_eq_append]

theorem coreSetAll_snaRegisters_regs (b : List Byte) (c : CoreState) :
    (coreSetAll (snaRegisters b) c).regs = headerRegs b (coreSetAll (snaRegisters b) c).regs.pc := by
  refine coreRegs_eq fun reg => ?_
  by_cases h : reg = .pc
  · simp only [h, regGet, headerRegs]
  · exact regGet_coreSetAll (snaRegisters_nodup b) (snaRegisters_width b) c (mem_snaRegisters_headerRegs b _ h)

/-- R267: the RAM of a snapshot replaces all of Memory from 0x4000. -/
theorem memGet_memSplice_snapshot {b : List Byte} (hlen : 27 + 49152 ≤ b.length) (m : Memory) (a : Addr) :
    memGet (memSplice m 0x4000 ((b.drop snaHeaderLen).take snaRamLen)) a =
      if 0x4000 ≤ a.toNat then b.getD (27 + (a.toNat - 0x4000)) 0 else memGet m a := by
  have ram : snaRamLen ≤ (b.drop snaHeaderLen).length := by
    rw [List.length_drop, snaRamLen, snaHeaderLen]
    omega
  have top : a.toNat < 0x4000 + snaRamLen := a.isLt
  rw [memGet_memSplice_take ram]
  simp only [top, and_true, List.getD_eq_getElem?_getD, List.getElem?_drop, snaHeaderLen, unwrittenByte]

/-- R154, R270: the redirect after a run of setters leaves the registers they wrote, PC apart. -/
theorem regGet_redirect_coreSetAll {ws : List (CoreReg × BitVec 16)} {reg : CoreReg} (hreg : reg ∈ ws.map (·.1)) (hpc : reg ≠ .pc)
    (a : Addr) (c : CoreState) : regGet reg (coreRedirect a (coreSetAll ws c)).1.regs = regGet reg (coreSetAll ws c).regs := by
  have held : reg ∈ (coreSetAll ws c).held := mem_coreSetAll_held.2 (.inl hreg)
  rw [regGet_coreRedirect, if_pos ⟨held, hpc⟩]

/-- Settles O38: the machine before the redirect has the header's registers, all of them held, and Memory with the RAM spliced in. -/
theorem loadSnaRestoresMachine : Obligations.LoadSnaRestoresMachine := by
  intro s b
  refine ⟨fun hshort => if_pos hshort, fun hlen => ?_⟩
  have completes : exec (.loadSna b) s = .next (restoreSnapshot b s) := if_neg (Nat.not_lt.2 hlen)
  exact ⟨_, _, completes, rfl, rfl, memGet_memSplice_snapshot hlen s.mem, coreSetAll_script _ s.core,
    fun reg hpc => regGet_redirect_coreSetAll ((mem_snaRegisters b reg).2 hpc) hpc _ s.core, coreSetAll_snaRegisters_regs b s.core⟩

/-! The images (R261, R262). -/

/-- Settles O37: both are loads of a fixed length, at the bottom of Memory and at the bitmap. -/
theorem loadRomAndScreenCopyImages : Obligations.LoadRomAndScreenCopyImages := by
  intro s src
  refine ⟨fun hshort => loadImage_short hshort 0x0000 s, fun hlen => ⟨_, loadImage_copied hlen (by decide) s, rfl, fun b => ?_⟩,
    fun hshort => loadImage_short hshort 0x4000 s, fun hlen => ⟨_, loadImage_copied hlen (by decide) s, rfl, fun b => ?_⟩⟩
  · simpa [romImageLen, unwrittenByte] using memGet_memSplice_take hlen s.mem 0 b
  · exact memGet_memSplice_take hlen s.mem 0x4000 b

/-! The outcomes of the operations (R280, R281) and of reset (R311). -/

/-- Settles O60, which `exec_next_or_load_stops` states of one operation and one state. -/
theorem onlyLoadsStop : Obligations.OnlyLoadsStop := exec_next_or_load_stops

/-- Settles O49: each field of the launch is the value of the rule, and a frame buffer with nothing listed reads 0 everywhere. -/
theorem resetValues : Obligations.ResetValues := by
  refine ⟨fun cfg mem core => ?_, rfl⟩
  have blank (y x : Nat) : fbGet (State.launch cfg mem core).fb y x = 0 := rfl
  exact ⟨rfl, rfl, rfl, rfl, rfl, rfl, rfl, rfl, rfl, blank, rfl, rfl, rfl, rfl, rfl⟩

end Sys2Proof.Machine
